-- ==== Sys2Proof/Word.lean ====
section
/-! DEFINITION. The two word types of the core (00_scope.md R7): a byte is 8 bits, a word 16 bits. -/

namespace Sys2Proof

/-- A byte, 0 to 255: a memory cell, a register half, an instruction byte. -/
abbrev Byte := BitVec 8

/-- A word, 0 to 65535: a general register, the instruction pointer, an address. -/
abbrev Word := BitVec 16

end Sys2Proof
end

