-- ==== Sys2Proof/Config.lean ====
section
/-! DEFINITION. What is fixed for one session: the implementation parameters of 00_scope.md R8, and the values that the
state after reset gives them. The core has no free value (70_reset_and_hazards.md R302), so nothing here is opaque. -/

namespace Sys2Proof

/-- The parameters of 00_scope.md R8. "None of them is changed by any instruction." The constraint
1 <= MEM_SIZE <= 65536 holds by the type: `memTop` is the last address, MEM_SIZE - 1. IMAGE itself is the argument of
`load`; a session keeps only where it lies. (Log 9.) -/
structure Params where
  /-- MEM_SIZE - 1: the highest address that exists. -/
  memTop    : Word
  /-- IMAGE_BASE: where the image was copied to. -/
  imageBase : Word
  /-- IMAGE_LEN: how many bytes the image has. -/
  imageLen  : Nat
  /-- SP_INIT: the value of SP after load. -/
  spInit    : Word
  /-- MAX_STEPS: the step budget of the run. -/
  maxSteps  : Nat
  deriving DecidableEq, Repr

namespace Config

/-- What a memory address that is not listed reads as: load fills memory outside the image with 0x00
(70_reset_and_hazards.md R290, the spec's decision D14). (Log 8.) -/
def unlistedByte : Byte := 0

/-- The longest supported instruction has six bytes (30_encoding.md R80). -/
def maxInstrLen : Nat := 6

/-- The parameters of `State.reset`. DESIGN CHOICE (log 3), unsafe: the spec fixes none of these five values; MEM_SIZE
65536, IMAGE_BASE 0 and SP_INIT 0 are the convention of 95_test_vectors.md, the image is empty, the budget is large. -/
def resetParams : Params where
  memTop    := 0xFFFF
  imageBase := 0
  imageLen  := 0
  spInit    := 0
  maxSteps  := 1000000

end Config

end Sys2Proof
end

