-- ==== Sys2Proof/Syntax.lean ====
section
/-! DEFINITION. The instructions as syntax: register names, memory operands, and one constructor of `Instr` for each row of
spec/opcode_table.json. A term of `Instr` is the instruction descriptor of 30_encoding.md R94: the constructor fixes the
mnemonic, the width and the form, its arguments are the operands. -/

namespace Sys2Proof

/-- The eight 16-bit general registers, in the order of their numbers 0 to 7 (10_state.md R20). -/
inductive Reg16 where
  | ax | cx | dx | bx | sp | bp | si | di
  deriving DecidableEq, Repr

/-- The eight byte halves, in the order of their numbers 0 to 7 (10_state.md R22). -/
inductive Reg8 where
  | al | cl | dl | bl | ah | ch | dh | bh
  deriving DecidableEq, Repr

/-- The eight base and index combinations, in the order of `rm` 0 to 7 (30_encoding.md R86). -/
inductive BaseIndex where
  | bxsi | bxdi | bpsi | bpdi | si | di | bp | bx
  deriving DecidableEq, Repr

/-- A memory operand: the recipe of 30_encoding.md R87 with the displacement as it is encoded (R85, R86, R88).
`noDisp .bp` is not a form of the hardware: mod = 0 with rm = 6 is `direct` (R88); WellFormed refuses it. -/
inductive MemOp where
  | noDisp (b : BaseIndex)
  | disp8 (b : BaseIndex) (d : Byte)
  | disp16 (b : BaseIndex) (d : Word)
  | direct (a : Word)
  deriving DecidableEq, Repr

/-- An operand r/m8: the `rm` operand of a byte instruction (30_encoding.md R85, R94). -/
inductive RM8 where
  | reg (r : Reg8)
  | mem (m : MemOp)
  deriving DecidableEq, Repr

/-- An operand r/m16: the `rm` operand of a word instruction (30_encoding.md R85, R94). -/
inductive RM16 where
  | reg (r : Reg16)
  | mem (m : MemOp)
  deriving DecidableEq, Repr

/-- One constructor per row of spec/opcode_table.json (120 rows); the comment of each gives its bytes and its rule.
Immediates, displacements and offsets are kept as encoded; the meanings extend them (30_encoding.md R89, R91, R92).
The last ten are the encodings rejected by name: only their opcode byte is read (44_halt_nop_rejected.md R232 to R235). -/
inductive Instr where
  /-- `00 /r`, R154. -/
  | addRm8R8 (rm : RM8) (r : Reg8)
  /-- `01 /r`, R154. -/
  | addRm16R16 (rm : RM16) (r : Reg16)
  /-- `02 /r`, R154. -/
  | addR8Rm8 (r : Reg8) (rm : RM8)
  /-- `03 /r`, R154. -/
  | addR16Rm16 (r : Reg16) (rm : RM16)
  /-- `04 ib`, R154. -/
  | addAlImm8 (v : Byte)
  /-- `05 iw`, R154. -/
  | addAxImm16 (v : Word)
  /-- `80 /0 ib`, R154. -/
  | addRm8Imm8 (rm : RM8) (v : Byte)
  /-- `81 /0 iw`, R154. -/
  | addRm16Imm16 (rm : RM16) (v : Word)
  /-- `83 /0 ib`, R154. -/
  | addRm16Simm8 (rm : RM16) (v : Byte)
  /-- `08 /r`, R182. -/
  | orRm8R8 (rm : RM8) (r : Reg8)
  /-- `09 /r`, R182. -/
  | orRm16R16 (rm : RM16) (r : Reg16)
  /-- `0A /r`, R182. -/
  | orR8Rm8 (r : Reg8) (rm : RM8)
  /-- `0B /r`, R182. -/
  | orR16Rm16 (r : Reg16) (rm : RM16)
  /-- `0C ib`, R182. -/
  | orAlImm8 (v : Byte)
  /-- `0D iw`, R182. -/
  | orAxImm16 (v : Word)
  /-- `80 /1 ib`, R182. -/
  | orRm8Imm8 (rm : RM8) (v : Byte)
  /-- `81 /1 iw`, R182. -/
  | orRm16Imm16 (rm : RM16) (v : Word)
  /-- `83 /1 ib`, R182. -/
  | orRm16Simm8 (rm : RM16) (v : Byte)
  /-- `20 /r`, R181. -/
  | andRm8R8 (rm : RM8) (r : Reg8)
  /-- `21 /r`, R181. -/
  | andRm16R16 (rm : RM16) (r : Reg16)
  /-- `22 /r`, R181. -/
  | andR8Rm8 (r : Reg8) (rm : RM8)
  /-- `23 /r`, R181. -/
  | andR16Rm16 (r : Reg16) (rm : RM16)
  /-- `24 ib`, R181. -/
  | andAlImm8 (v : Byte)
  /-- `25 iw`, R181. -/
  | andAxImm16 (v : Word)
  /-- `80 /4 ib`, R181. -/
  | andRm8Imm8 (rm : RM8) (v : Byte)
  /-- `81 /4 iw`, R181. -/
  | andRm16Imm16 (rm : RM16) (v : Word)
  /-- `83 /4 ib`, R181. -/
  | andRm16Simm8 (rm : RM16) (v : Byte)
  /-- `28 /r`, R155. -/
  | subRm8R8 (rm : RM8) (r : Reg8)
  /-- `29 /r`, R155. -/
  | subRm16R16 (rm : RM16) (r : Reg16)
  /-- `2A /r`, R155. -/
  | subR8Rm8 (r : Reg8) (rm : RM8)
  /-- `2B /r`, R155. -/
  | subR16Rm16 (r : Reg16) (rm : RM16)
  /-- `2C ib`, R155. -/
  | subAlImm8 (v : Byte)
  /-- `2D iw`, R155. -/
  | subAxImm16 (v : Word)
  /-- `80 /5 ib`, R155. -/
  | subRm8Imm8 (rm : RM8) (v : Byte)
  /-- `81 /5 iw`, R155. -/
  | subRm16Imm16 (rm : RM16) (v : Word)
  /-- `83 /5 ib`, R155. -/
  | subRm16Simm8 (rm : RM16) (v : Byte)
  /-- `30 /r`, R183. -/
  | xorRm8R8 (rm : RM8) (r : Reg8)
  /-- `31 /r`, R183. -/
  | xorRm16R16 (rm : RM16) (r : Reg16)
  /-- `32 /r`, R183. -/
  | xorR8Rm8 (r : Reg8) (rm : RM8)
  /-- `33 /r`, R183. -/
  | xorR16Rm16 (r : Reg16) (rm : RM16)
  /-- `34 ib`, R183. -/
  | xorAlImm8 (v : Byte)
  /-- `35 iw`, R183. -/
  | xorAxImm16 (v : Word)
  /-- `80 /6 ib`, R183. -/
  | xorRm8Imm8 (rm : RM8) (v : Byte)
  /-- `81 /6 iw`, R183. -/
  | xorRm16Imm16 (rm : RM16) (v : Word)
  /-- `83 /6 ib`, R183. -/
  | xorRm16Simm8 (rm : RM16) (v : Byte)
  /-- `38 /r`, R156. -/
  | cmpRm8R8 (rm : RM8) (r : Reg8)
  /-- `39 /r`, R156. -/
  | cmpRm16R16 (rm : RM16) (r : Reg16)
  /-- `3A /r`, R156. -/
  | cmpR8Rm8 (r : Reg8) (rm : RM8)
  /-- `3B /r`, R156. -/
  | cmpR16Rm16 (r : Reg16) (rm : RM16)
  /-- `3C ib`, R156. -/
  | cmpAlImm8 (v : Byte)
  /-- `3D iw`, R156. -/
  | cmpAxImm16 (v : Word)
  /-- `80 /7 ib`, R156. -/
  | cmpRm8Imm8 (rm : RM8) (v : Byte)
  /-- `81 /7 iw`, R156. -/
  | cmpRm16Imm16 (rm : RM16) (v : Word)
  /-- `83 /7 ib`, R156. -/
  | cmpRm16Simm8 (rm : RM16) (v : Byte)
  /-- `88 /r`, R131. -/
  | movRm8R8 (rm : RM8) (r : Reg8)
  /-- `89 /r`, R131. -/
  | movRm16R16 (rm : RM16) (r : Reg16)
  /-- `8A /r`, R131. -/
  | movR8Rm8 (r : Reg8) (rm : RM8)
  /-- `8B /r`, R131. -/
  | movR16Rm16 (r : Reg16) (rm : RM16)
  /-- `A0 lo hi`, R131. -/
  | movAlMoffs (a : Word)
  /-- `A1 lo hi`, R131. -/
  | movAxMoffs (a : Word)
  /-- `A2 lo hi`, R131. -/
  | movMoffsAl (a : Word)
  /-- `A3 lo hi`, R131. -/
  | movMoffsAx (a : Word)
  /-- `B0+r ib`, R131. -/
  | movR8Imm8 (r : Reg8) (v : Byte)
  /-- `B8+r iw`, R131. -/
  | movR16Imm16 (r : Reg16) (v : Word)
  /-- `C6 /0 ib`, R131. -/
  | movRm8Imm8 (rm : RM8) (v : Byte)
  /-- `C7 /0 iw`, R131. -/
  | movRm16Imm16 (rm : RM16) (v : Word)
  /-- `50+r`, R132. -/
  | pushR16 (r : Reg16)
  /-- `FF /6`, R132. -/
  | pushRm16 (rm : RM16)
  /-- `58+r`, R133. -/
  | popR16 (r : Reg16)
  /-- `8F /0`, R133. -/
  | popRm16 (rm : RM16)
  /-- `40+r`, R157. -/
  | incR16 (r : Reg16)
  /-- `FE /0`, R157. -/
  | incRm8 (rm : RM8)
  /-- `FF /0`, R157. -/
  | incRm16 (rm : RM16)
  /-- `48+r`, R158. -/
  | decR16 (r : Reg16)
  /-- `FE /1`, R158. -/
  | decRm8 (rm : RM8)
  /-- `FF /1`, R158. -/
  | decRm16 (rm : RM16)
  /-- `F6 /2`, R184. -/
  | notRm8 (rm : RM8)
  /-- `F7 /2`, R184. -/
  | notRm16 (rm : RM16)
  /-- `F6 /4`, R159. -/
  | mulRm8 (rm : RM8)
  /-- `F7 /4`, R159. -/
  | mulRm16 (rm : RM16)
  /-- `F6 /6`, R160. -/
  | divRm8 (rm : RM8)
  /-- `F7 /6`, R160. -/
  | divRm16 (rm : RM16)
  /-- `F6 /7`, R161. -/
  | idivRm8 (rm : RM8)
  /-- `F7 /7`, R161. -/
  | idivRm16 (rm : RM16)
  /-- `EB cb`, R191. -/
  | jmpRel8 (d : Byte)
  /-- `E9 cw`, R191. -/
  | jmpRel16 (d : Word)
  /-- `FF /4`, R191. -/
  | jmpRm16 (rm : RM16)
  /-- `70 cb`, R192. -/
  | jo (d : Byte)
  /-- `71 cb`, R193. -/
  | jno (d : Byte)
  /-- `72 cb`, R194. -/
  | jb (d : Byte)
  /-- `73 cb`, R195. -/
  | jnb (d : Byte)
  /-- `74 cb`, R196. -/
  | je (d : Byte)
  /-- `75 cb`, R197. -/
  | jne (d : Byte)
  /-- `76 cb`, R198. -/
  | jbe (d : Byte)
  /-- `77 cb`, R199. -/
  | jnbe (d : Byte)
  /-- `78 cb`, R200. -/
  | js (d : Byte)
  /-- `79 cb`, R201. -/
  | jns (d : Byte)
  /-- `7A cb`, R202. -/
  | jp (d : Byte)
  /-- `7B cb`, R203. -/
  | jnp (d : Byte)
  /-- `7C cb`, R204. -/
  | jl (d : Byte)
  /-- `7D cb`, R205. -/
  | jnl (d : Byte)
  /-- `7E cb`, R206. -/
  | jle (d : Byte)
  /-- `7F cb`, R207. -/
  | jnle (d : Byte)
  /-- `E8 cw`, R208. -/
  | callRel16 (d : Word)
  /-- `FF /2`, R208. -/
  | callRm16 (rm : RM16)
  /-- `C3`, R209. -/
  | ret
  /-- `C2 iw`, R209. -/
  | retImm16 (v : Word)
  /-- `E2 cb`, R210. -/
  | loop (d : Byte)
  /-- `F4`, R230. -/
  | hlt
  /-- `90`, R231. -/
  | nop
  /-- `E4`, R232. -/
  | inAlImm8
  /-- `E5`, R232. -/
  | inAxImm8
  /-- `EC`, R232. -/
  | inAlDx
  /-- `ED`, R232. -/
  | inAxDx
  /-- `E6`, R233. -/
  | outImm8Al
  /-- `E7`, R233. -/
  | outImm8Ax
  /-- `EE`, R233. -/
  | outDxAl
  /-- `EF`, R233. -/
  | outDxAx
  /-- `F0`, R234. -/
  | lock
  /-- `9B`, R235. -/
  | wait
  deriving DecidableEq, Repr

end Sys2Proof
end

