-- ==== Sys2Proof/Decode.lean ====
section
/-! DEFINITION. The byte-level encoding (30_encoding.md): bit fields and byte order, the decoder, total on any bytes, and
after it the encoder. The decoder follows R98 over the first-byte map of R101; the encoder is written on its own from the
bytes each instruction rule gives. Every opcode number is 93_implementation_defined.md G1's. (Log 5.) -/

namespace Sys2Proof

/-! ## Bytes, words, extension -/

/-- `v[7:0]`. -/
def lowByte (v : Word) : Byte := v.extractLsb' 0 8

/-- `v[15:8]`. -/
def highByte (v : Word) : Byte := v.extractLsb' 8 8

/-- `hi ++ lo`: the word with that high and that low byte. -/
def joinBytes (hi lo : Byte) : Word := hi ++ lo

/-- `sext_16` of an 8-bit value (00_scope.md section 4.1). -/
def sext16 (v : Byte) : Word := v.signExtend 16

/-- A 16-bit field of an instruction as its two bytes, low byte first (20_memory.md R52, 30_encoding.md R90). -/
def le16 (v : Word) : List Byte := [lowByte v, highByte v]

/-! ## Register numbers and the mode byte -/

/-- The number of a 16-bit register (30_encoding.md R83, w = 1). -/
def Reg16.num : Reg16 → BitVec 3
  | .ax => 0 | .cx => 1 | .dx => 2 | .bx => 3 | .sp => 4 | .bp => 5 | .si => 6 | .di => 7

/-- The 16-bit register with a number (30_encoding.md R83, w = 1). -/
def Reg16.ofNum (n : BitVec 3) : Reg16 :=
  match n.toNat with
  | 0 => .ax | 1 => .cx | 2 => .dx | 3 => .bx | 4 => .sp | 5 => .bp | 6 => .si | _ => .di

/-- The number of a byte register (30_encoding.md R83, w = 0). -/
def Reg8.num : Reg8 → BitVec 3
  | .al => 0 | .cl => 1 | .dl => 2 | .bl => 3 | .ah => 4 | .ch => 5 | .dh => 6 | .bh => 7

/-- The byte register with a number (30_encoding.md R83, w = 0). -/
def Reg8.ofNum (n : BitVec 3) : Reg8 :=
  match n.toNat with
  | 0 => .al | 1 => .cl | 2 => .dl | 3 => .bl | 4 => .ah | 5 => .ch | 6 => .dh | _ => .bh

/-- The `rm` number of a base and index combination (30_encoding.md R86). -/
def BaseIndex.num : BaseIndex → BitVec 3
  | .bxsi => 0 | .bxdi => 1 | .bpsi => 2 | .bpdi => 3 | .si => 4 | .di => 5 | .bp => 6 | .bx => 7

/-- The base and index combination with an `rm` number (30_encoding.md R86). -/
def BaseIndex.ofNum (n : BitVec 3) : BaseIndex :=
  match n.toNat with
  | 0 => .bxsi | 1 => .bxdi | 2 => .bpsi | 3 => .bpdi | 4 => .si | 5 => .di | 6 => .bp | _ => .bx

/-- `mod = modrm[7:6]` (30_encoding.md R84). -/
def modField (m : Byte) : BitVec 2 := m.extractLsb' 6 2

/-- `reg = modrm[5:3]` (30_encoding.md R84). -/
def regField (m : Byte) : BitVec 3 := m.extractLsb' 3 3

/-- `rm = modrm[2:0]` (30_encoding.md R84). The same bits of an opcode byte are its `reg` field (R82). -/
def rmField (m : Byte) : BitVec 3 := m.extractLsb' 0 3

/-- The mode byte with these fields (30_encoding.md R84). -/
def modeByte (mod : BitVec 2) (reg rm : BitVec 3) : Byte := (mod ++ reg ++ rm : BitVec (2 + 3 + 3))

/-- The opcode byte with these bits 7:3 and a register number in bits 2:0 (30_encoding.md R82). -/
def opcodeWithReg (high : BitVec 5) (reg : BitVec 3) : Byte := (high ++ reg : BitVec (5 + 3))

/-- `dispbytes` of a memory operand (30_encoding.md R85, R88). -/
def MemOp.dispBytes : MemOp → Nat
  | .noDisp _ => 0
  | .disp8 _ _ => 1
  | .disp16 _ _ => 2
  | .direct _ => 2

/-- `dispbytes` of an r/m8 operand: 0 for a register (30_encoding.md R85). -/
def RM8.dispBytes : RM8 → Nat
  | .reg _ => 0
  | .mem m => m.dispBytes

/-- `dispbytes` of an r/m16 operand: 0 for a register (30_encoding.md R85). -/
def RM16.dispBytes : RM16 → Nat
  | .reg _ => 0
  | .mem m => m.dispBytes

/-! ## Reading the parts of an instruction

Each reader takes a part off the front of the bytes and answers it with the rest, or `none` when a byte is missing. -/

/-- One byte. -/
def takeByte : List Byte → Option (Byte × List Byte)
  | b :: rest => some (b, rest)
  | [] => none

/-- Two bytes, low byte first (30_encoding.md R90). -/
def takeWord : List Byte → Option (Word × List Byte)
  | lo :: hi :: rest => some (joinBytes hi lo, rest)
  | _ => none

/-- The memory operand of a mode byte with mod other than 3, and its displacement (30_encoding.md R85, R86, R88, R89). -/
def takeMem (mod : BitVec 2) (rm : BitVec 3) (bs : List Byte) : Option (MemOp × List Byte) :=
  if mod = 0 then
    if rm = 6 then (takeWord bs).map fun p => (.direct p.1, p.2)
    else some (.noDisp (BaseIndex.ofNum rm), bs)
  else if mod = 1 then (takeByte bs).map fun p => (.disp8 (BaseIndex.ofNum rm) p.1, p.2)
  else (takeWord bs).map fun p => (.disp16 (BaseIndex.ofNum rm) p.1, p.2)

/-- The r/m8 operand of a mode byte (30_encoding.md R85). -/
def takeRM8 (m : Byte) (bs : List Byte) : Option (RM8 × List Byte) :=
  if modField m = 3 then some (.reg (Reg8.ofNum (rmField m)), bs)
  else (takeMem (modField m) (rmField m) bs).map fun p => (.mem p.1, p.2)

/-- The r/m16 operand of a mode byte (30_encoding.md R85). -/
def takeRM16 (m : Byte) (bs : List Byte) : Option (RM16 × List Byte) :=
  if modField m = 3 then some (.reg (Reg16.ofNum (rmField m)), bs)
  else (takeMem (modField m) (rmField m) bs).map fun p => (.mem p.1, p.2)

/-! ## The opcode map -/

/-- Why bytes are no instruction: the information UnsupportedInstruction records (60_exceptions.md R250, R251). -/
inductive Unsupported where
  /-- The opcode byte is unsupported, or rejected by name. -/
  | opcode (b0 : Byte)
  /-- A group opcode whose mode byte's `reg` field selects an unsupported slot. -/
  | slot (b0 modrm : Byte)
  /-- A byte of the instruction lies at or beyond IMAGE_END. -/
  | truncated
  deriving DecidableEq, Repr

/-- The nine encoding forms that ADD, OR, AND, SUB, XOR and CMP share (41_arithmetic.md R153, in the order of its table). -/
structure NineForms where
  rm8R8     : RM8 → Reg8 → Instr
  rm16R16   : RM16 → Reg16 → Instr
  r8Rm8     : Reg8 → RM8 → Instr
  r16Rm16   : Reg16 → RM16 → Instr
  alImm8    : Byte → Instr
  axImm16   : Word → Instr
  rm8Imm8   : RM8 → Byte → Instr
  rm16Imm16 : RM16 → Word → Instr
  rm16Simm8 : RM16 → Byte → Instr

/-- The nine forms of ADD (R154). -/
def addForms : NineForms :=
  ⟨.addRm8R8, .addRm16R16, .addR8Rm8, .addR16Rm16, .addAlImm8, .addAxImm16, .addRm8Imm8, .addRm16Imm16, .addRm16Simm8⟩

/-- The nine forms of OR (R182). -/
def orForms : NineForms :=
  ⟨.orRm8R8, .orRm16R16, .orR8Rm8, .orR16Rm16, .orAlImm8, .orAxImm16, .orRm8Imm8, .orRm16Imm16, .orRm16Simm8⟩

/-- The nine forms of AND (R181). -/
def andForms : NineForms :=
  ⟨.andRm8R8, .andRm16R16, .andR8Rm8, .andR16Rm16, .andAlImm8, .andAxImm16, .andRm8Imm8, .andRm16Imm16, .andRm16Simm8⟩

/-- The nine forms of SUB (R155). -/
def subForms : NineForms :=
  ⟨.subRm8R8, .subRm16R16, .subR8Rm8, .subR16Rm16, .subAlImm8, .subAxImm16, .subRm8Imm8, .subRm16Imm16, .subRm16Simm8⟩

/-- The nine forms of XOR (R183). -/
def xorForms : NineForms :=
  ⟨.xorRm8R8, .xorRm16R16, .xorR8Rm8, .xorR16Rm16, .xorAlImm8, .xorAxImm16, .xorRm8Imm8, .xorRm16Imm16, .xorRm16Simm8⟩

/-- The nine forms of CMP (R156). -/
def cmpForms : NineForms :=
  ⟨.cmpRm8R8, .cmpRm16R16, .cmpR8Rm8, .cmpR16Rm16, .cmpAlImm8, .cmpAxImm16, .cmpRm8Imm8, .cmpRm16Imm16, .cmpRm16Simm8⟩

/-- The operation of a slot `/k` of group 1, which is also the operation of the opcode block with base 8 * k
(30_encoding.md R102, R103). -/
def groupOne (k : BitVec 3) : Option NineForms :=
  match k.toNat with
  | 0 => some addForms
  | 1 => some orForms
  | 4 => some andForms
  | 5 => some subForms
  | 6 => some xorForms
  | 7 => some cmpForms
  | _ => none

/-- Slots of F6 (30_encoding.md R104). -/
def groupThreeByte (k : BitVec 3) : Option (RM8 → Instr) :=
  match k.toNat with
  | 2 => some .notRm8
  | 4 => some .mulRm8
  | 6 => some .divRm8
  | 7 => some .idivRm8
  | _ => none

/-- Slots of F7 (30_encoding.md R104). -/
def groupThreeWord (k : BitVec 3) : Option (RM16 → Instr) :=
  match k.toNat with
  | 2 => some .notRm16
  | 4 => some .mulRm16
  | 6 => some .divRm16
  | 7 => some .idivRm16
  | _ => none

/-- Slots of FE (30_encoding.md R105). -/
def groupFour (k : BitVec 3) : Option (RM8 → Instr) :=
  match k.toNat with
  | 0 => some .incRm8
  | 1 => some .decRm8
  | _ => none

/-- Slots of FF (30_encoding.md R106). -/
def groupFive (k : BitVec 3) : Option (RM16 → Instr) :=
  match k.toNat with
  | 0 => some .incRm16
  | 1 => some .decRm16
  | 2 => some .callRm16
  | 4 => some .jmpRm16
  | 6 => some .pushRm16
  | _ => none

/-- Slots of 8F (30_encoding.md R107). -/
def groupPop (k : BitVec 3) : Option (RM16 → Instr) := if k = 0 then some .popRm16 else none

/-- Slots of C6 (30_encoding.md R108). -/
def groupMovByte (k : BitVec 3) : Option (RM8 → Byte → Instr) := if k = 0 then some .movRm8Imm8 else none

/-- Slots of C7 (30_encoding.md R108). -/
def groupMovWord (k : BitVec 3) : Option (RM16 → Word → Instr) := if k = 0 then some .movRm16Imm16 else none

/-- What follows an opcode byte (the formats of 30_encoding.md R97, split by operand width). -/
inductive Row where
  /-- No instruction starts with this byte. -/
  | unsupported
  /-- Nothing follows: OP and OP_REG, and the bytes rejected by name. -/
  | plain (i : Instr)
  /-- One byte follows: OP_IMM and OP_REG_IMM byte, OP_REL8. -/
  | imm8 (mk : Byte → Instr)
  /-- Two bytes follow: OP_IMM and OP_REG_IMM word, OP_REL16, OP_MOFFS. -/
  | imm16 (mk : Word → Instr)
  /-- OP_MODRM, byte. -/
  | modrm8 (mk : RM8 → Reg8 → Instr)
  /-- OP_MODRM, word. -/
  | modrm16 (mk : RM16 → Reg16 → Instr)
  /-- OP_MODRM_EXT, byte. -/
  | ext8 (slot : BitVec 3 → Option (RM8 → Instr))
  /-- OP_MODRM_EXT, word. -/
  | ext16 (slot : BitVec 3 → Option (RM16 → Instr))
  /-- OP_MODRM_EXT_IMM, byte operand and byte immediate. -/
  | ext8Imm8 (slot : BitVec 3 → Option (RM8 → Byte → Instr))
  /-- OP_MODRM_EXT_IMM, word operand and word immediate. -/
  | ext16Imm16 (slot : BitVec 3 → Option (RM16 → Word → Instr))
  /-- OP_MODRM_EXT_IMM, word operand and byte immediate (opcode 83). -/
  | ext16Imm8 (slot : BitVec 3 → Option (RM16 → Byte → Instr))

/-- One block of eight opcode bytes of a two-operand operation, by the form 0 to 7 (30_encoding.md R102). -/
def aluRow (ops : NineForms) (form : BitVec 3) : Row :=
  match form.toNat with
  | 0 => .modrm8 ops.rm8R8
  | 1 => .modrm16 ops.rm16R16
  | 2 => .modrm8 fun rm r => ops.r8Rm8 r rm
  | 3 => .modrm16 fun rm r => ops.r16Rm16 r rm
  | 4 => .imm8 ops.alImm8
  | 5 => .imm16 ops.axImm16
  | _ => .unsupported

/-- The first-byte map of 30_encoding.md R101. The first match takes the rows that R101 lists by blocks of eight bytes,
where bits 2:0 are a form (R102) or a register number (R82); the second takes the single bytes. Any other byte is
unsupported. -/
def rowOf (b0 : Byte) : Row :=
  match (b0 >>> 3).toNat with
  | 0x00 => aluRow addForms (rmField b0)
  | 0x01 => aluRow orForms (rmField b0)
  | 0x04 => aluRow andForms (rmField b0)
  | 0x05 => aluRow subForms (rmField b0)
  | 0x06 => aluRow xorForms (rmField b0)
  | 0x07 => aluRow cmpForms (rmField b0)
  | 0x08 => .plain (.incR16 (Reg16.ofNum (rmField b0)))
  | 0x09 => .plain (.decR16 (Reg16.ofNum (rmField b0)))
  | 0x0A => .plain (.pushR16 (Reg16.ofNum (rmField b0)))
  | 0x0B => .plain (.popR16 (Reg16.ofNum (rmField b0)))
  | 0x16 => .imm8 (.movR8Imm8 (Reg8.ofNum (rmField b0)))
  | 0x17 => .imm16 (.movR16Imm16 (Reg16.ofNum (rmField b0)))
  | _ =>
    match b0.toNat with
    | 0x70 => .imm8 .jo
    | 0x71 => .imm8 .jno
    | 0x72 => .imm8 .jb
    | 0x73 => .imm8 .jnb
    | 0x74 => .imm8 .je
    | 0x75 => .imm8 .jne
    | 0x76 => .imm8 .jbe
    | 0x77 => .imm8 .jnbe
    | 0x78 => .imm8 .js
    | 0x79 => .imm8 .jns
    | 0x7A => .imm8 .jp
    | 0x7B => .imm8 .jnp
    | 0x7C => .imm8 .jl
    | 0x7D => .imm8 .jnl
    | 0x7E => .imm8 .jle
    | 0x7F => .imm8 .jnle
    | 0x80 => .ext8Imm8 fun k => (groupOne k).map NineForms.rm8Imm8
    | 0x81 => .ext16Imm16 fun k => (groupOne k).map NineForms.rm16Imm16
    | 0x83 => .ext16Imm8 fun k => (groupOne k).map NineForms.rm16Simm8
    | 0x88 => .modrm8 .movRm8R8
    | 0x89 => .modrm16 .movRm16R16
    | 0x8A => .modrm8 fun rm r => .movR8Rm8 r rm
    | 0x8B => .modrm16 fun rm r => .movR16Rm16 r rm
    | 0x8F => .ext16 groupPop
    | 0x90 => .plain .nop
    | 0x9B => .plain .wait
    | 0xA0 => .imm16 .movAlMoffs
    | 0xA1 => .imm16 .movAxMoffs
    | 0xA2 => .imm16 .movMoffsAl
    | 0xA3 => .imm16 .movMoffsAx
    | 0xC2 => .imm16 .retImm16
    | 0xC3 => .plain .ret
    | 0xC6 => .ext8Imm8 groupMovByte
    | 0xC7 => .ext16Imm16 groupMovWord
    | 0xE2 => .imm8 .loop
    | 0xE4 => .plain .inAlImm8
    | 0xE5 => .plain .inAxImm8
    | 0xE6 => .plain .outImm8Al
    | 0xE7 => .plain .outImm8Ax
    | 0xE8 => .imm16 .callRel16
    | 0xE9 => .imm16 .jmpRel16
    | 0xEB => .imm8 .jmpRel8
    | 0xEC => .plain .inAlDx
    | 0xED => .plain .inAxDx
    | 0xEE => .plain .outDxAl
    | 0xEF => .plain .outDxAx
    | 0xF0 => .plain .lock
    | 0xF4 => .plain .hlt
    | 0xF6 => .ext8 groupThreeByte
    | 0xF7 => .ext16 groupThreeWord
    | 0xFE => .ext8 groupFour
    | 0xFF => .ext16 groupFive
    | _ => .unsupported

/-! ## The decoder -/

/-- A missing byte makes the encoding malformed (20_memory.md R65). -/
def orTruncated (r : Option (Instr × List Byte)) : Except Unsupported (Instr × List Byte) :=
  match r with
  | some p => .ok p
  | none => .error .truncated

/-- The rest of an instruction after its opcode byte `b0` (30_encoding.md R98). For a group opcode the mode byte is
fetched, then the slot is examined, then the displacement and the immediate are read (60_exceptions.md R259). -/
def decodeRow (b0 : Byte) (row : Row) (bs : List Byte) : Except Unsupported (Instr × List Byte) :=
  match row, bs with
  | .unsupported, _ => .error (.opcode b0)
  | .plain i, rest => .ok (i, rest)
  | .imm8 mk, rest => orTruncated ((takeByte rest).map fun p => (mk p.1, p.2))
  | .imm16 mk, rest => orTruncated ((takeWord rest).map fun p => (mk p.1, p.2))
  | .modrm8 mk, m :: rest => orTruncated ((takeRM8 m rest).map fun p => (mk p.1 (Reg8.ofNum (regField m)), p.2))
  | .modrm16 mk, m :: rest => orTruncated ((takeRM16 m rest).map fun p => (mk p.1 (Reg16.ofNum (regField m)), p.2))
  | .ext8 slot, m :: rest =>
    match slot (regField m) with
    | none => .error (.slot b0 m)
    | some mk => orTruncated ((takeRM8 m rest).map fun p => (mk p.1, p.2))
  | .ext16 slot, m :: rest =>
    match slot (regField m) with
    | none => .error (.slot b0 m)
    | some mk => orTruncated ((takeRM16 m rest).map fun p => (mk p.1, p.2))
  | .ext8Imm8 slot, m :: rest =>
    match slot (regField m) with
    | none => .error (.slot b0 m)
    | some mk => orTruncated ((takeRM8 m rest).bind fun p => (takeByte p.2).map fun q => (mk p.1 q.1, q.2))
  | .ext16Imm16 slot, m :: rest =>
    match slot (regField m) with
    | none => .error (.slot b0 m)
    | some mk => orTruncated ((takeRM16 m rest).bind fun p => (takeWord p.2).map fun q => (mk p.1 q.1, q.2))
  | .ext16Imm8 slot, m :: rest =>
    match slot (regField m) with
    | none => .error (.slot b0 m)
    | some mk => orTruncated ((takeRM16 m rest).bind fun p => (takeByte p.2).map fun q => (mk p.1 q.1, q.2))
  | _, [] => .error .truncated

/-- The decoder (30_encoding.md R98, R99): the instruction at the front of the bytes and the bytes after it, or why there
is none. The encodings rejected by name decode to their own constructors, whose meanings raise (log 7). -/
def decode : List Byte → Except Unsupported (Instr × List Byte)
  | [] => .error .truncated
  | b0 :: rest => decodeRow b0 (rowOf b0) rest

/-! ## The encoder -/

/-- `mod` of a memory operand (30_encoding.md R85). -/
def MemOp.modBits : MemOp → BitVec 2
  | .noDisp _ => 0
  | .disp8 _ _ => 1
  | .disp16 _ _ => 2
  | .direct _ => 0

/-- `rm` of a memory operand (30_encoding.md R86, R88). -/
def MemOp.rmBits : MemOp → BitVec 3
  | .noDisp b => b.num
  | .disp8 b _ => b.num
  | .disp16 b _ => b.num
  | .direct _ => 6

/-- The displacement bytes of a memory operand (30_encoding.md R85, R89). -/
def MemOp.disp : MemOp → List Byte
  | .noDisp _ => []
  | .disp8 _ d => [d]
  | .disp16 _ d => le16 d
  | .direct a => le16 a

/-- The mode byte and displacement of a byte instruction with this `reg` field. -/
def RM8.bytes (rm : RM8) (reg : BitVec 3) : List Byte :=
  match rm with
  | .reg r => [modeByte 3 reg r.num]
  | .mem m => modeByte m.modBits reg m.rmBits :: m.disp

/-- The mode byte and displacement of a word instruction with this `reg` field. -/
def RM16.bytes (rm : RM16) (reg : BitVec 3) : List Byte :=
  match rm with
  | .reg r => [modeByte 3 reg r.num]
  | .mem m => modeByte m.modBits reg m.rmBits :: m.disp

/-- The bytes of an instruction, from the encoding tables of R131 to R235. For the encodings rejected by name it is the
opcode byte, the only byte that is read (44_halt_nop_rejected.md section 2; log 7). -/
def encode : Instr → List Byte
  | .addRm8R8 rm r => 0x00 :: rm.bytes r.num
  | .addRm16R16 rm r => 0x01 :: rm.bytes r.num
  | .addR8Rm8 r rm => 0x02 :: rm.bytes r.num
  | .addR16Rm16 r rm => 0x03 :: rm.bytes r.num
  | .addAlImm8 v => [0x04, v]
  | .addAxImm16 v => 0x05 :: le16 v
  | .addRm8Imm8 rm v => 0x80 :: (rm.bytes 0 ++ [v])
  | .addRm16Imm16 rm v => 0x81 :: (rm.bytes 0 ++ le16 v)
  | .addRm16Simm8 rm v => 0x83 :: (rm.bytes 0 ++ [v])
  | .orRm8R8 rm r => 0x08 :: rm.bytes r.num
  | .orRm16R16 rm r => 0x09 :: rm.bytes r.num
  | .orR8Rm8 r rm => 0x0A :: rm.bytes r.num
  | .orR16Rm16 r rm => 0x0B :: rm.bytes r.num
  | .orAlImm8 v => [0x0C, v]
  | .orAxImm16 v => 0x0D :: le16 v
  | .orRm8Imm8 rm v => 0x80 :: (rm.bytes 1 ++ [v])
  | .orRm16Imm16 rm v => 0x81 :: (rm.bytes 1 ++ le16 v)
  | .orRm16Simm8 rm v => 0x83 :: (rm.bytes 1 ++ [v])
  | .andRm8R8 rm r => 0x20 :: rm.bytes r.num
  | .andRm16R16 rm r => 0x21 :: rm.bytes r.num
  | .andR8Rm8 r rm => 0x22 :: rm.bytes r.num
  | .andR16Rm16 r rm => 0x23 :: rm.bytes r.num
  | .andAlImm8 v => [0x24, v]
  | .andAxImm16 v => 0x25 :: le16 v
  | .andRm8Imm8 rm v => 0x80 :: (rm.bytes 4 ++ [v])
  | .andRm16Imm16 rm v => 0x81 :: (rm.bytes 4 ++ le16 v)
  | .andRm16Simm8 rm v => 0x83 :: (rm.bytes 4 ++ [v])
  | .subRm8R8 rm r => 0x28 :: rm.bytes r.num
  | .subRm16R16 rm r => 0x29 :: rm.bytes r.num
  | .subR8Rm8 r rm => 0x2A :: rm.bytes r.num
  | .subR16Rm16 r rm => 0x2B :: rm.bytes r.num
  | .subAlImm8 v => [0x2C, v]
  | .subAxImm16 v => 0x2D :: le16 v
  | .subRm8Imm8 rm v => 0x80 :: (rm.bytes 5 ++ [v])
  | .subRm16Imm16 rm v => 0x81 :: (rm.bytes 5 ++ le16 v)
  | .subRm16Simm8 rm v => 0x83 :: (rm.bytes 5 ++ [v])
  | .xorRm8R8 rm r => 0x30 :: rm.bytes r.num
  | .xorRm16R16 rm r => 0x31 :: rm.bytes r.num
  | .xorR8Rm8 r rm => 0x32 :: rm.bytes r.num
  | .xorR16Rm16 r rm => 0x33 :: rm.bytes r.num
  | .xorAlImm8 v => [0x34, v]
  | .xorAxImm16 v => 0x35 :: le16 v
  | .xorRm8Imm8 rm v => 0x80 :: (rm.bytes 6 ++ [v])
  | .xorRm16Imm16 rm v => 0x81 :: (rm.bytes 6 ++ le16 v)
  | .xorRm16Simm8 rm v => 0x83 :: (rm.bytes 6 ++ [v])
  | .cmpRm8R8 rm r => 0x38 :: rm.bytes r.num
  | .cmpRm16R16 rm r => 0x39 :: rm.bytes r.num
  | .cmpR8Rm8 r rm => 0x3A :: rm.bytes r.num
  | .cmpR16Rm16 r rm => 0x3B :: rm.bytes r.num
  | .cmpAlImm8 v => [0x3C, v]
  | .cmpAxImm16 v => 0x3D :: le16 v
  | .cmpRm8Imm8 rm v => 0x80 :: (rm.bytes 7 ++ [v])
  | .cmpRm16Imm16 rm v => 0x81 :: (rm.bytes 7 ++ le16 v)
  | .cmpRm16Simm8 rm v => 0x83 :: (rm.bytes 7 ++ [v])
  | .movRm8R8 rm r => 0x88 :: rm.bytes r.num
  | .movRm16R16 rm r => 0x89 :: rm.bytes r.num
  | .movR8Rm8 r rm => 0x8A :: rm.bytes r.num
  | .movR16Rm16 r rm => 0x8B :: rm.bytes r.num
  | .movAlMoffs a => 0xA0 :: le16 a
  | .movAxMoffs a => 0xA1 :: le16 a
  | .movMoffsAl a => 0xA2 :: le16 a
  | .movMoffsAx a => 0xA3 :: le16 a
  | .movR8Imm8 r v => [opcodeWithReg 0x16 r.num, v]
  | .movR16Imm16 r v => opcodeWithReg 0x17 r.num :: le16 v
  | .movRm8Imm8 rm v => 0xC6 :: (rm.bytes 0 ++ [v])
  | .movRm16Imm16 rm v => 0xC7 :: (rm.bytes 0 ++ le16 v)
  | .pushR16 r => [opcodeWithReg 0x0A r.num]
  | .pushRm16 rm => 0xFF :: rm.bytes 6
  | .popR16 r => [opcodeWithReg 0x0B r.num]
  | .popRm16 rm => 0x8F :: rm.bytes 0
  | .incR16 r => [opcodeWithReg 0x08 r.num]
  | .incRm8 rm => 0xFE :: rm.bytes 0
  | .incRm16 rm => 0xFF :: rm.bytes 0
  | .decR16 r => [opcodeWithReg 0x09 r.num]
  | .decRm8 rm => 0xFE :: rm.bytes 1
  | .decRm16 rm => 0xFF :: rm.bytes 1
  | .notRm8 rm => 0xF6 :: rm.bytes 2
  | .notRm16 rm => 0xF7 :: rm.bytes 2
  | .mulRm8 rm => 0xF6 :: rm.bytes 4
  | .mulRm16 rm => 0xF7 :: rm.bytes 4
  | .divRm8 rm => 0xF6 :: rm.bytes 6
  | .divRm16 rm => 0xF7 :: rm.bytes 6
  | .idivRm8 rm => 0xF6 :: rm.bytes 7
  | .idivRm16 rm => 0xF7 :: rm.bytes 7
  | .jmpRel8 d => [0xEB, d]
  | .jmpRel16 d => 0xE9 :: le16 d
  | .jmpRm16 rm => 0xFF :: rm.bytes 4
  | .jo d => [0x70, d]
  | .jno d => [0x71, d]
  | .jb d => [0x72, d]
  | .jnb d => [0x73, d]
  | .je d => [0x74, d]
  | .jne d => [0x75, d]
  | .jbe d => [0x76, d]
  | .jnbe d => [0x77, d]
  | .js d => [0x78, d]
  | .jns d => [0x79, d]
  | .jp d => [0x7A, d]
  | .jnp d => [0x7B, d]
  | .jl d => [0x7C, d]
  | .jnl d => [0x7D, d]
  | .jle d => [0x7E, d]
  | .jnle d => [0x7F, d]
  | .callRel16 d => 0xE8 :: le16 d
  | .callRm16 rm => 0xFF :: rm.bytes 2
  | .ret => [0xC3]
  | .retImm16 v => 0xC2 :: le16 v
  | .loop d => [0xE2, d]
  | .hlt => [0xF4]
  | .nop => [0x90]
  | .inAlImm8 => [0xE4]
  | .inAxImm8 => [0xE5]
  | .inAlDx => [0xEC]
  | .inAxDx => [0xED]
  | .outImm8Al => [0xE6]
  | .outImm8Ax => [0xE7]
  | .outDxAl => [0xEE]
  | .outDxAx => [0xEF]
  | .lock => [0xF0]
  | .wait => [0x9B]

/-- `len` (30_encoding.md R81), as the table of each instruction rule gives it. -/
def Instr.len : Instr → Nat
  | .addRm8R8 rm _ => 2 + rm.dispBytes
  | .addRm16R16 rm _ => 2 + rm.dispBytes
  | .addR8Rm8 _ rm => 2 + rm.dispBytes
  | .addR16Rm16 _ rm => 2 + rm.dispBytes
  | .addAlImm8 _ => 2
  | .addAxImm16 _ => 3
  | .addRm8Imm8 rm _ => 3 + rm.dispBytes
  | .addRm16Imm16 rm _ => 4 + rm.dispBytes
  | .addRm16Simm8 rm _ => 3 + rm.dispBytes
  | .orRm8R8 rm _ => 2 + rm.dispBytes
  | .orRm16R16 rm _ => 2 + rm.dispBytes
  | .orR8Rm8 _ rm => 2 + rm.dispBytes
  | .orR16Rm16 _ rm => 2 + rm.dispBytes
  | .orAlImm8 _ => 2
  | .orAxImm16 _ => 3
  | .orRm8Imm8 rm _ => 3 + rm.dispBytes
  | .orRm16Imm16 rm _ => 4 + rm.dispBytes
  | .orRm16Simm8 rm _ => 3 + rm.dispBytes
  | .andRm8R8 rm _ => 2 + rm.dispBytes
  | .andRm16R16 rm _ => 2 + rm.dispBytes
  | .andR8Rm8 _ rm => 2 + rm.dispBytes
  | .andR16Rm16 _ rm => 2 + rm.dispBytes
  | .andAlImm8 _ => 2
  | .andAxImm16 _ => 3
  | .andRm8Imm8 rm _ => 3 + rm.dispBytes
  | .andRm16Imm16 rm _ => 4 + rm.dispBytes
  | .andRm16Simm8 rm _ => 3 + rm.dispBytes
  | .subRm8R8 rm _ => 2 + rm.dispBytes
  | .subRm16R16 rm _ => 2 + rm.dispBytes
  | .subR8Rm8 _ rm => 2 + rm.dispBytes
  | .subR16Rm16 _ rm => 2 + rm.dispBytes
  | .subAlImm8 _ => 2
  | .subAxImm16 _ => 3
  | .subRm8Imm8 rm _ => 3 + rm.dispBytes
  | .subRm16Imm16 rm _ => 4 + rm.dispBytes
  | .subRm16Simm8 rm _ => 3 + rm.dispBytes
  | .xorRm8R8 rm _ => 2 + rm.dispBytes
  | .xorRm16R16 rm _ => 2 + rm.dispBytes
  | .xorR8Rm8 _ rm => 2 + rm.dispBytes
  | .xorR16Rm16 _ rm => 2 + rm.dispBytes
  | .xorAlImm8 _ => 2
  | .xorAxImm16 _ => 3
  | .xorRm8Imm8 rm _ => 3 + rm.dispBytes
  | .xorRm16Imm16 rm _ => 4 + rm.dispBytes
  | .xorRm16Simm8 rm _ => 3 + rm.dispBytes
  | .cmpRm8R8 rm _ => 2 + rm.dispBytes
  | .cmpRm16R16 rm _ => 2 + rm.dispBytes
  | .cmpR8Rm8 _ rm => 2 + rm.dispBytes
  | .cmpR16Rm16 _ rm => 2 + rm.dispBytes
  | .cmpAlImm8 _ => 2
  | .cmpAxImm16 _ => 3
  | .cmpRm8Imm8 rm _ => 3 + rm.dispBytes
  | .cmpRm16Imm16 rm _ => 4 + rm.dispBytes
  | .cmpRm16Simm8 rm _ => 3 + rm.dispBytes
  | .movRm8R8 rm _ => 2 + rm.dispBytes
  | .movRm16R16 rm _ => 2 + rm.dispBytes
  | .movR8Rm8 _ rm => 2 + rm.dispBytes
  | .movR16Rm16 _ rm => 2 + rm.dispBytes
  | .movAlMoffs _ => 3
  | .movAxMoffs _ => 3
  | .movMoffsAl _ => 3
  | .movMoffsAx _ => 3
  | .movR8Imm8 _ _ => 2
  | .movR16Imm16 _ _ => 3
  | .movRm8Imm8 rm _ => 3 + rm.dispBytes
  | .movRm16Imm16 rm _ => 4 + rm.dispBytes
  | .pushR16 _ => 1
  | .pushRm16 rm => 2 + rm.dispBytes
  | .popR16 _ => 1
  | .popRm16 rm => 2 + rm.dispBytes
  | .incR16 _ => 1
  | .incRm8 rm => 2 + rm.dispBytes
  | .incRm16 rm => 2 + rm.dispBytes
  | .decR16 _ => 1
  | .decRm8 rm => 2 + rm.dispBytes
  | .decRm16 rm => 2 + rm.dispBytes
  | .notRm8 rm => 2 + rm.dispBytes
  | .notRm16 rm => 2 + rm.dispBytes
  | .mulRm8 rm => 2 + rm.dispBytes
  | .mulRm16 rm => 2 + rm.dispBytes
  | .divRm8 rm => 2 + rm.dispBytes
  | .divRm16 rm => 2 + rm.dispBytes
  | .idivRm8 rm => 2 + rm.dispBytes
  | .idivRm16 rm => 2 + rm.dispBytes
  | .jmpRel8 _ => 2
  | .jmpRel16 _ => 3
  | .jmpRm16 rm => 2 + rm.dispBytes
  | .jo _ => 2
  | .jno _ => 2
  | .jb _ => 2
  | .jnb _ => 2
  | .je _ => 2
  | .jne _ => 2
  | .jbe _ => 2
  | .jnbe _ => 2
  | .js _ => 2
  | .jns _ => 2
  | .jp _ => 2
  | .jnp _ => 2
  | .jl _ => 2
  | .jnl _ => 2
  | .jle _ => 2
  | .jnle _ => 2
  | .callRel16 _ => 3
  | .callRm16 rm => 2 + rm.dispBytes
  | .ret => 1
  | .retImm16 _ => 3
  | .loop _ => 2
  | .hlt => 1
  | .nop => 1
  | .inAlImm8 => 1
  | .inAxImm8 => 1
  | .inAlDx => 1
  | .inAxDx => 1
  | .outImm8Al => 1
  | .outImm8Ax => 1
  | .outDxAl => 1
  | .outDxAx => 1
  | .lock => 1
  | .wait => 1

/-! ## A word of spec/opcode_table.json as bytes -/

/-- Byte `k` of an instruction given as a number in the table's own numbering: the table's words are 16 bits, 0xHHLL with
HH the opcode byte (bits 15:8) and LL the mode byte (bits 7:0) (30_encoding.md section 9), and each later pair of bytes is
the next word, first byte in its bits 15:8. A last byte that has no partner is taken as it stands. Bits at and above
`nbits` are 0. (Log 6.) -/
def tableByte (nbits w k : Nat) : Byte :=
  let at_ := if k % 2 = 1 then 8 * (k - 1) else if 8 * (k + 1) < nbits then 8 * (k + 1) else 8 * k
  if 8 * k < nbits then BitVec.ofNat 8 (w >>> at_) else 0

/-- The bytes of a table word up to the longest instruction, those above `nbits` zero. -/
def tableBytes (nbits w : Nat) : List Byte :=
  [tableByte nbits w 0, tableByte nbits w 1, tableByte nbits w 2, tableByte nbits w 3, tableByte nbits w 4,
    tableByte nbits w 5]

/-- The instruction the decoder reads from an instruction whose bits are `w`, numbered as spec/opcode_table.json numbers
them. -/
def decodeTableWord (nbits w : Nat) : Option Instr :=
  match decode (tableBytes nbits w) with
  | .ok p => some p.1
  | .error _ => none

end Sys2Proof
end

