-- ==== Sys2Proof/Machine/State.lean ====
section
/-! DEFINITION. The state of one session (10_state.md): general registers, instruction pointer, nine flags, memory, status,
step counter, and the parameters of the session. Plain data. -/

namespace Sys2Proof.Machine

/-- The class of a fault reason (60_exceptions.md R250, first column). -/
inductive FaultClass where
  | decodeError
  | executionFault
  | resourceLimit
  | loadError
  deriving DecidableEq, Repr

/-- The fault reasons a session's Status can hold (60_exceptions.md R250). The core's own faults are states: `raise` writes
one of these into Status and the step answers that NEXT state (log 1); no meaning answers `Host.Outcome.fault`. Safe: the
reason, the address and the unchanged rest of the state are what the spec says. -/
inductive Fault where
  /-- Raised by the decoder, and by the meanings of IN, OUT, LOCK and WAIT (R251). Safe. -/
  | unsupportedInstruction (info : Unsupported)
  /-- Raised by MemRead and MemWrite, with the address of the access (R252). Safe. -/
  | memoryFault (addr : Word)
  /-- Raised by DIV and IDIV when the divisor is 0 (R253). Safe. -/
  | divideByZero
  /-- Raised by DIV and IDIV when the quotient does not fit (R254; the spec's decisions D21, D22). Safe. -/
  | divideOverflow
  /-- Raised by the run loop when STEPS = MAX_STEPS (R255). Safe. -/
  | stepLimitExceeded
  deriving DecidableEq, Repr

/-- The class of each reason (60_exceptions.md R250). -/
def Fault.classOf : Fault → FaultClass
  | .unsupportedInstruction _ => .decodeError
  | .memoryFault _ => .executionFault
  | .divideByZero => .executionFault
  | .divideOverflow => .executionFault
  | .stepLimitExceeded => .resourceLimit

/-- Why a step has no meaning. No arm of this model answers one: every constructor of Instr has its meaning. -/
inductive Refusal where
  /-- Answered by an arm of `exec` whose instruction has no meaning yet. Safe: nothing is proved of it. -/
  | notModelled (mnemonic : String)
  deriving DecidableEq, Repr

/-- What one step answers. -/
abbrev Result (σ : Type) := Host.Outcome σ Fault Refusal

/-- The two halt reasons (10_state.md R38, 60_exceptions.md R257). -/
inductive HaltReason where
  /-- An HLT instruction was executed. -/
  | hltExecuted
  /-- pc left the image window without an HLT. -/
  | endOfProgram
  deriving DecidableEq, Repr

/-- The status register (10_state.md R38). Halted and Faulted are terminal. -/
inductive Status where
  | running
  | halted (reason : HaltReason)
  | faulted (reason : Fault)
  deriving DecidableEq, Repr

/-- The eight general registers (10_state.md R20). The byte halves are read and written through accessors (R22, R23). -/
structure Regs where
  ax : Word
  cx : Word
  dx : Word
  bx : Word
  sp : Word
  bp : Word
  si : Word
  di : Word
  deriving DecidableEq, Repr

/-- The "nine independent boolean flags" (10_state.md R29). They are never packed into a word (R37). -/
structure Flags where
  /-- CF -/
  carry     : Bool
  /-- PF -/
  parity    : Bool
  /-- AF -/
  aux       : Bool
  /-- ZF -/
  zero      : Bool
  /-- SF -/
  sign      : Bool
  /-- TF -/
  trap      : Bool
  /-- IF -/
  interrupt : Bool
  /-- DF -/
  direction : Bool
  /-- OF -/
  overflow  : Bool
  deriving DecidableEq, Repr

/-- Memory as the list of the cells that differ from what an unlisted address reads as. -/
abbrev Memory := List Host.Cell

/-- The one canonical form of a memory: addresses strictly rising, no cell equal to the unlisted byte. -/
abbrev Memory.wf (m : Memory) : Prop :=
  m.Pairwise (fun c d => c.1 < d.1) ∧ ∀ c ∈ m, c.2 ≠ Config.unlistedByte

/-- One session (10_state.md, opening table), with its parameters (00_scope.md R8). -/
structure State where
  regs   : Regs
  /-- The instruction pointer IP (10_state.md R26). -/
  pc     : Word
  flags  : Flags
  mem    : Memory
  /-- Status (10_state.md R38). -/
  status : Status
  /-- STEPS, the steps begun since load (10_state.md R40). -/
  steps  : Nat
  params : Params
  deriving DecidableEq, Repr

/-- All general registers after load (10_state.md R42), with the given SP. -/
def Regs.atLoad (spInit : Word) : Regs where
  ax := 0
  cx := 0
  dx := 0
  bx := 0
  sp := spInit
  bp := 0
  si := 0
  di := 0

/-- All nine flags after load: false (10_state.md R42). -/
def Flags.atLoad : Flags where
  carry := false
  parity := false
  aux := false
  zero := false
  sign := false
  trap := false
  interrupt := false
  direction := false
  overflow := false

/-- The machine right after reset: a successful load (70_reset_and_hazards.md R290, R292) of an empty image with the
parameters of `Config.resetParams` (log 3). How a program comes to run from here: log 3. -/
def State.reset : State where
  regs   := Regs.atLoad Config.resetParams.spInit
  pc     := Config.resetParams.imageBase
  flags  := Flags.atLoad
  mem    := []
  status := .running
  steps  := 0
  params := Config.resetParams

end Sys2Proof.Machine
end

