-- ==== Sys2Proof/Machine/Ops.lean ====
section
/-! DEFINITION. The named operations over registers, memory and run control, the one operation that takes a fault, and the
fetch of an instruction's bytes. There is no return from a fault or a halt (60_exceptions.md R261), so none stands here. -/

namespace Sys2Proof.Machine

/-! ## Registers (10_state.md R20 to R25) -/

/-- `x[i]`: read a 16-bit register. -/
def Regs.get (g : Regs) : Reg16 → Word
  | .ax => g.ax
  | .cx => g.cx
  | .dx => g.dx
  | .bx => g.bx
  | .sp => g.sp
  | .bp => g.bp
  | .si => g.si
  | .di => g.di

/-- `x[i] <- v`: write a 16-bit register. -/
def Regs.set (g : Regs) (r : Reg16) (v : Word) : Regs :=
  match r with
  | .ax => { g with ax := v }
  | .cx => { g with cx := v }
  | .dx => { g with dx := v }
  | .bx => { g with bx := v }
  | .sp => { g with sp := v }
  | .bp => { g with bp := v }
  | .si => { g with si := v }
  | .di => { g with di := v }

/-- The 16-bit register a byte register is a half of (10_state.md R22). -/
def wholeOf : Reg8 → Reg16
  | .al => .ax
  | .cl => .cx
  | .dl => .dx
  | .bl => .bx
  | .ah => .ax
  | .ch => .cx
  | .dh => .dx
  | .bh => .bx

/-- Whether a byte register is the high half (10_state.md R22). -/
def isHigh : Reg8 → Bool
  | .al => false
  | .cl => false
  | .dl => false
  | .bl => false
  | .ah => true
  | .ch => true
  | .dh => true
  | .bh => true

/-- `xb[i]`: read a byte half (10_state.md R22). -/
def Regs.get8 (g : Regs) (r : Reg8) : Byte :=
  if isHigh r then highByte (g.get (wholeOf r)) else lowByte (g.get (wholeOf r))

/-- `xb[i] <- v`: write a byte half, the other half untouched (10_state.md R23). -/
def Regs.set8 (g : Regs) (r : Reg8) (v : Byte) : Regs :=
  let old := g.get (wholeOf r)
  g.set (wholeOf r) (if isHigh r then joinBytes v (lowByte old) else joinBytes (highByte old) v)

/-- The state with a 16-bit register written. -/
def State.setReg (s : State) (r : Reg16) (v : Word) : State := { s with regs := s.regs.set r v }

/-- The state with a byte half written. -/
def State.setReg8 (s : State) (r : Reg8) (v : Byte) : State := { s with regs := s.regs.set8 r v }

/-- The state with the flags written. -/
def State.setFlags (s : State) (f : Flags) : State := { s with flags := f }

/-- `pc <- target`. -/
def State.setPc (s : State) (target : Word) : State := { s with pc := target }

/-- `next = (pc + len) mod 2^16` (10_state.md R27). -/
def State.next (s : State) (len : Nat) : Word := s.pc + BitVec.ofNat 16 len

/-- `pc <- next`. -/
def State.advance (s : State) (len : Nat) : State := s.setPc (s.next len)

/-! ## Memory (20_memory.md R50 to R60) -/

/-- MEM_SIZE. -/
def State.memSize (s : State) : Nat := s.params.memTop.toNat + 1

/-- `Mem[a]`. -/
def Memory.read (m : Memory) (a : Nat) : Byte :=
  match m with
  | [] => Config.unlistedByte
  | c :: rest => if a = c.1 then c.2 else Memory.read rest a

/-- `Mem[a] <- v`, keeping the canonical form: writing the unlisted byte removes the cell. -/
def Memory.write (m : Memory) (a : Nat) (v : Byte) : Memory :=
  match m with
  | [] => if v = Config.unlistedByte then [] else [(a, v)]
  | c :: rest =>
    if a < c.1 then
      if v = Config.unlistedByte then c :: rest else (a, v) :: c :: rest
    else if a = c.1 then
      if v = Config.unlistedByte then rest else (a, v) :: rest
    else c :: Memory.write rest a v

/-- The word at `a`, little-endian (R52). -/
def Memory.readWord (m : Memory) (a : Nat) : Word := joinBytes (m.read (a + 1)) (m.read a)

/-- The word at `a` written, little-endian (R52). -/
def Memory.writeWord (m : Memory) (a : Nat) (v : Word) : Memory := (m.write a (lowByte v)).write (a + 1) (highByte v)

/-- Bytes written at rising addresses from `a`. -/
def Memory.writeBytes (m : Memory) (a : Nat) : List Byte → Memory
  | [] => m
  | b :: rest => Memory.writeBytes (m.write a b) (a + 1) rest

/-- `MemRead(addr, 1)` (R53). -/
def State.memRead8 (s : State) (a : Word) : Except Fault Byte :=
  if a.toNat < s.memSize then .ok (s.mem.read a.toNat) else .error (.memoryFault a)

/-- `MemRead(addr, 2)` (R53): the bound is checked without reducing addr + 1 (R55). -/
def State.memRead16 (s : State) (a : Word) : Except Fault Word :=
  if a.toNat + 1 < s.memSize then .ok (s.mem.readWord a.toNat) else .error (.memoryFault a)

/-- `MemWrite(addr, 1, v)` (R54). -/
def State.memWrite8 (s : State) (a : Word) (v : Byte) : Except Fault State :=
  if a.toNat < s.memSize then .ok { s with mem := s.mem.write a.toNat v } else .error (.memoryFault a)

/-- `MemWrite(addr, 2, v)` (R54): checked before either byte is written. -/
def State.memWrite16 (s : State) (a : Word) (v : Word) : Except Fault State :=
  if a.toNat + 1 < s.memSize then .ok { s with mem := s.mem.writeWord a.toNat v } else .error (.memoryFault a)

/-! ## Taking a fault (60_exceptions.md R258) -/

/-- `raise F(info)`: Status <- Faulted(F(info)) and nothing else; `s` is the state before the faulting instruction, so
every write the instruction made is discarded. pc stays at the faulting instruction (R262). -/
def raise (f : Fault) (s : State) : Result State := .next { s with status := .faulted f }

/-- The end of an instruction that ran on `s`: all its writes, or the fault it raised and none of them (20_memory.md R58). -/
def commit (s : State) (r : Except Fault State) : Result State :=
  match r with
  | .ok t => .next t
  | .error f => raise f s

/-! ## The stack (20_memory.md R68) -/

/-- `sp' = (SP - 2) mod 2^16`. -/
def State.loweredSp (s : State) : Word := s.regs.sp - 2

/-- Lower SP by 2 and store a word at the new SP. -/
def State.push (s : State) (v : Word) : Except Fault State := do
  let t ← s.memWrite16 s.loweredSp v
  return t.setReg .sp s.loweredSp

/-- Load the word at SP and raise SP by 2. -/
def State.pop (s : State) : Except Fault (Word × State) := do
  let v ← s.memRead16 s.regs.sp
  return (v, s.setReg .sp (s.regs.sp + 2))

/-! ## The run loop's own actions and the fetch (20_memory.md R64, R65; 70_reset_and_hazards.md R298) -/

/-- IMAGE_END. -/
def State.imageEnd (s : State) : Nat := s.params.imageBase.toNat + s.params.imageLen

/-- IMAGE_BASE <= pc < IMAGE_END. -/
def State.inWindow (s : State) : Bool := decide (s.params.imageBase.toNat ≤ s.pc.toNat ∧ s.pc.toNat < s.imageEnd)

/-- STEPS <- STEPS + 1. -/
def State.countStep (s : State) : State := { s with steps := s.steps + 1 }

/-- Status <- Halted(EndOfProgram). -/
def State.endOfProgram (s : State) : State := { s with status := .halted .endOfProgram }

/-- The next `n` bytes of the image window from address `a`: none lies at or beyond IMAGE_END (R65). -/
def State.windowBytes (s : State) (a : Nat) : Nat → List Byte
  | 0 => []
  | n + 1 => if a < s.imageEnd then s.mem.read a :: State.windowBytes s (a + 1) n else []

/-- The bytes the decoder may read: from pc on, inside the window, at most the longest instruction. -/
def State.fetch (s : State) : List Byte := s.windowBytes s.pc.toNat Config.maxInstrLen

/-- The decoded instruction at pc (30_encoding.md R98), or why there is none. -/
def State.fetchDecode (s : State) : Except Unsupported Instr :=
  match decode s.fetch with
  | .ok p => .ok p.1
  | .error u => .error u

end Sys2Proof.Machine
end

