-- ==== Sys2Proof/Machine/Flags.lean ====
section
/-! DEFINITION. The flag computer (41_arithmetic.md R150 to R152, R159; 42_logic.md R180). Each function takes the operands
and the flags before and answers the flags after; a flag it does not write keeps its value. -/

namespace Sys2Proof.Machine

/-- How many of the bits 0 to k - 1 of v are 1. -/
def onesBelow {n : Nat} (v : BitVec n) : Nat → Nat
  | 0 => 0
  | k + 1 => onesBelow v k + (v.getLsbD k).toNat

/-- PF: bits 7:0 hold an even number of ones (R150). -/
def evenParity {n : Nat} (r : BitVec n) : Bool := onesBelow r 8 % 2 == 0

/-- SetSZP(r, n) (R150). -/
def Flags.setSZP {n : Nat} (f : Flags) (r : BitVec n) : Flags :=
  { f with sign := r.msb, zero := r == 0, parity := evenParity r }

/-- The flags of Add(a, b, n) (R151). -/
def Flags.afterAdd {n : Nat} (f : Flags) (a b : BitVec n) : Flags :=
  { f.setSZP (a + b) with
    carry    := decide (2 ^ n ≤ a.toNat + b.toNat)
    overflow := a.msb == b.msb && (a + b).msb != a.msb
    aux      := decide (15 < a.toNat % 16 + b.toNat % 16) }

/-- The flags of Sub(a, b, n) (R152). -/
def Flags.afterSub {n : Nat} (f : Flags) (a b : BitVec n) : Flags :=
  { f.setSZP (a - b) with
    carry    := decide (a.toNat < b.toNat)
    overflow := a.msb != b.msb && (a - b).msb != a.msb
    aux      := decide (a.toNat % 16 < b.toNat % 16) }

/-- The flags of Logic(r, n) (R180): AF is not written (the spec's decision D18; log 10). -/
def Flags.afterLogic {n : Nat} (f : Flags) (r : BitVec n) : Flags :=
  { f.setSZP r with carry := false, overflow := false }

/-- The flags of MUL from the high half of the product (R159): SF, ZF, PF and AF are not written (D19; log 10). -/
def Flags.afterMul (f : Flags) (high : Nat) : Flags :=
  { f with carry := decide (high ≠ 0), overflow := decide (high ≠ 0) }

end Sys2Proof.Machine
end

