-- ==== Sys2Proof/Machine/Operands.lean ====
section
/-! DEFINITION. The operand router (30_encoding.md R86 to R96): effective addresses, and reading and writing operand
descriptors at the width of the instruction. -/

namespace Sys2Proof.Machine

/-- The base of an effective address, modulo 2^16 (R86, R87). -/
def baseValue (g : Regs) : BaseIndex → Word
  | .bxsi => g.bx + g.si
  | .bxdi => g.bx + g.di
  | .bpsi => g.bp + g.si
  | .bpdi => g.bp + g.di
  | .si => g.si
  | .di => g.di
  | .bp => g.bp
  | .bx => g.bx

/-- EA(mod, rm, disp) (R87, R88, R89). -/
def effAddr (g : Regs) : MemOp → Word
  | .noDisp b => baseValue g b
  | .disp8 b d => baseValue g b + sext16 d
  | .disp16 b d => baseValue g b + d
  | .direct a => a

/-- A source operand of a byte instruction: register, memory or immediate (R94). -/
inductive Src8 where
  | rm (x : RM8)
  | imm (v : Byte)
  deriving DecidableEq, Repr

/-- A source operand of a word instruction: register, memory or immediate (R94). The immediate is already extended. -/
inductive Src16 where
  | rm (x : RM16)
  | imm (v : Word)
  deriving DecidableEq, Repr

/-- ReadOp of a byte register or memory operand (R95). -/
def readRM8 (s : State) : RM8 → Except Fault Byte
  | .reg r => .ok (s.regs.get8 r)
  | .mem m => s.memRead8 (effAddr s.regs m)

/-- ReadOp of a word register or memory operand (R95). -/
def readRM16 (s : State) : RM16 → Except Fault Word
  | .reg r => .ok (s.regs.get r)
  | .mem m => s.memRead16 (effAddr s.regs m)

/-- ReadOp of a byte source (R95). -/
def readSrc8 (s : State) : Src8 → Except Fault Byte
  | .rm x => readRM8 s x
  | .imm v => .ok v

/-- ReadOp of a word source (R95). -/
def readSrc16 (s : State) : Src16 → Except Fault Word
  | .rm x => readRM16 s x
  | .imm v => .ok v

/-- WriteOp of a byte register or memory operand (R96). No operand's EA depends on a register the instruction writes
before this (SP is in no EA), so the EA is the one at the start of the instruction (R87). -/
def writeRM8 (s : State) (d : RM8) (v : Byte) : Except Fault State :=
  match d with
  | .reg r => .ok (s.setReg8 r v)
  | .mem m => s.memWrite8 (effAddr s.regs m) v

/-- WriteOp of a word register or memory operand (R96). -/
def writeRM16 (s : State) (d : RM16) (v : Word) : Except Fault State :=
  match d with
  | .reg r => .ok (s.setReg r v)
  | .mem m => s.memWrite16 (effAddr s.regs m) v

end Sys2Proof.Machine
end

