-- ==== Sys2Proof/Machine/Shapes.lean ====
section
/-! DEFINITION. The shapes that the instructions share: each meaning is one of these at its own operation, operands and
length. `len` is the instruction's length in bytes. -/

namespace Sys2Proof.Machine

/-- a = ReadOp(dst); b = ReadOp(src); WriteOp(dst, op a b); flags; pc <- next (41_arithmetic.md R153), byte. -/
def binary8 (op : Byte → Byte → Byte) (fl : Flags → Byte → Byte → Flags) (dst : RM8) (src : Src8) (len : Nat)
    (s : State) : Result State :=
  commit s do
    let a ← readRM8 s dst
    let b ← readSrc8 s src
    let t ← writeRM8 s dst (op a b)
    return (t.setFlags (fl s.flags a b)).advance len

/-- a = ReadOp(dst); b = ReadOp(src); WriteOp(dst, op a b); flags; pc <- next (41_arithmetic.md R153), word. -/
def binary16 (op : Word → Word → Word) (fl : Flags → Word → Word → Flags) (dst : RM16) (src : Src16) (len : Nat)
    (s : State) : Result State :=
  commit s do
    let a ← readRM16 s dst
    let b ← readSrc16 s src
    let t ← writeRM16 s dst (op a b)
    return (t.setFlags (fl s.flags a b)).advance len

/-- As `binary8`, with the result discarded (41_arithmetic.md R156). -/
def compare8 (fl : Flags → Byte → Byte → Flags) (dst : RM8) (src : Src8) (len : Nat) (s : State) : Result State :=
  commit s do
    let a ← readRM8 s dst
    let b ← readSrc8 s src
    return (s.setFlags (fl s.flags a b)).advance len

/-- As `binary16`, with the result discarded (41_arithmetic.md R156). -/
def compare16 (fl : Flags → Word → Word → Flags) (dst : RM16) (src : Src16) (len : Nat) (s : State) : Result State :=
  commit s do
    let a ← readRM16 s dst
    let b ← readSrc16 s src
    return (s.setFlags (fl s.flags a b)).advance len

/-- a = ReadOp(dst); WriteOp(dst, op a); flags; pc <- next (41_arithmetic.md R157, R158; 42_logic.md R184), byte. -/
def unary8 (op : Byte → Byte) (fl : Flags → Byte → Flags) (dst : RM8) (len : Nat) (s : State) : Result State :=
  commit s do
    let a ← readRM8 s dst
    let t ← writeRM8 s dst (op a)
    return (t.setFlags (fl s.flags a)).advance len

/-- a = ReadOp(dst); WriteOp(dst, op a); flags; pc <- next (41_arithmetic.md R157, R158; 42_logic.md R184), word. -/
def unary16 (op : Word → Word) (fl : Flags → Word → Flags) (dst : RM16) (len : Nat) (s : State) : Result State :=
  commit s do
    let a ← readRM16 s dst
    let t ← writeRM16 s dst (op a)
    return (t.setFlags (fl s.flags a)).advance len

/-- v = ReadOp(src); WriteOp(dst, v); pc <- next (40_data_movement.md R131), byte. -/
def move8 (dst : RM8) (src : Src8) (len : Nat) (s : State) : Result State :=
  commit s do
    let v ← readSrc8 s src
    let t ← writeRM8 s dst v
    return t.advance len

/-- v = ReadOp(src); WriteOp(dst, v); pc <- next (40_data_movement.md R131), word. -/
def move16 (dst : RM16) (src : Src16) (len : Nat) (s : State) : Result State :=
  commit s do
    let v ← readSrc16 s src
    let t ← writeRM16 s dst v
    return t.advance len

/-- The value PUSH stores: PUSH SP stores the already lowered value (40_data_movement.md R132, the spec's decision D23). -/
def pushedValue (s : State) (src : RM16) : Except Fault Word :=
  if src = .reg .sp then .ok s.loweredSp else readRM16 s src

/-- PUSH src (40_data_movement.md R132). -/
def pushShape (src : RM16) (len : Nat) (s : State) : Result State :=
  commit s do
    let v ← pushedValue s src
    let t ← s.push v
    return t.advance len

/-- POP dst (40_data_movement.md R133): the destination is written after SP is raised. -/
def popShape (dst : RM16) (len : Nat) (s : State) : Result State :=
  commit s do
    let p ← s.pop
    let t ← writeRM16 p.2 dst p.1
    return t.advance len

/-- MUL at width byte: AX <- AL * b (41_arithmetic.md R159). -/
def mul8 (src : RM8) (len : Nat) (s : State) : Result State :=
  commit s do
    let b ← readRM8 s src
    let p := (s.regs.get8 .al).toNat * b.toNat
    return ((s.setReg .ax (BitVec.ofNat 16 p)).setFlags (s.flags.afterMul (p / 2 ^ 8))).advance len

/-- MUL at width word: DX ++ AX <- AX * b (41_arithmetic.md R159). -/
def mul16 (src : RM16) (len : Nat) (s : State) : Result State :=
  commit s do
    let b ← readRM16 s src
    let p := s.regs.ax.toNat * b.toNat
    let t := (s.setReg .ax (BitVec.ofNat 16 p)).setReg .dx (BitVec.ofNat 16 (p / 2 ^ 16))
    return (t.setFlags (s.flags.afterMul (p / 2 ^ 16))).advance len

/-- DX ++ AX. -/
def State.dxax (s : State) : BitVec 32 := s.regs.dx ++ s.regs.ax

/-- Quotient and remainder of an n-bit unsigned division (41_arithmetic.md R160), or the fault it raises. -/
def divideUnsigned (n num b : Nat) : Except Fault (Nat × Nat) :=
  if b = 0 then .error .divideByZero
  else if 2 ^ n - 1 < num / b then .error .divideOverflow
  else .ok (num / b, num % b)

/-- Quotient, rounded toward zero, and remainder of an n-bit signed division (41_arithmetic.md R161), or the fault it
raises. The range is symmetric (the spec's decision D22). -/
def divideSigned (n : Nat) (num d : Int) : Except Fault (Int × Int) :=
  if d = 0 then .error .divideByZero
  else if ((2 ^ (n - 1) - 1 : Nat) : Int) < num.tdiv d ∨ num.tdiv d < -((2 ^ (n - 1) - 1 : Nat) : Int) then
    .error .divideOverflow
  else .ok (num.tdiv d, num - num.tdiv d * d)

/-- AL <- q; AH <- r; pc <- next. -/
def State.putQuotient8 (s : State) (q r : Byte) : State := (s.setReg8 .al q).setReg8 .ah r

/-- AX <- q; DX <- r; pc <- next. -/
def State.putQuotient16 (s : State) (q r : Word) : State := (s.setReg .ax q).setReg .dx r

/-- DIV at width byte (41_arithmetic.md R160). -/
def div8 (src : RM8) (len : Nat) (s : State) : Result State :=
  commit s do
    let b ← readRM8 s src
    let qr ← divideUnsigned 8 s.regs.ax.toNat b.toNat
    return (s.putQuotient8 (BitVec.ofNat 8 qr.1) (BitVec.ofNat 8 qr.2)).advance len

/-- DIV at width word (41_arithmetic.md R160). -/
def div16 (src : RM16) (len : Nat) (s : State) : Result State :=
  commit s do
    let b ← readRM16 s src
    let qr ← divideUnsigned 16 s.dxax.toNat b.toNat
    return (s.putQuotient16 (BitVec.ofNat 16 qr.1) (BitVec.ofNat 16 qr.2)).advance len

/-- IDIV at width byte (41_arithmetic.md R161). -/
def idiv8 (src : RM8) (len : Nat) (s : State) : Result State :=
  commit s do
    let b ← readRM8 s src
    let qr ← divideSigned 8 s.regs.ax.toInt b.toInt
    return (s.putQuotient8 (BitVec.ofInt 8 qr.1) (BitVec.ofInt 8 qr.2)).advance len

/-- IDIV at width word (41_arithmetic.md R161). -/
def idiv16 (src : RM16) (len : Nat) (s : State) : Result State :=
  commit s do
    let b ← readRM16 s src
    let qr ← divideSigned 16 s.dxax.toInt b.toInt
    return (s.putQuotient16 (BitVec.ofInt 16 qr.1) (BitVec.ofInt 16 qr.2)).advance len

/-- `(next + rel) mod 2^16` (43_control_flow.md R190, 30_encoding.md R92). -/
def State.relTarget (s : State) (len : Nat) (rel : Word) : Word := s.next len + rel

/-- pc <- target (43_control_flow.md R191). -/
def jumpTo (target : Except Fault Word) (s : State) : Result State :=
  commit s do
    let t ← target
    return s.setPc t

/-- if cond: pc <- (next + sext_16(rel8)) mod 2^16, else pc <- next; len = 2 (43_control_flow.md section 3). -/
def branchIf (cond : Bool) (rel : Byte) (s : State) : Result State :=
  .next (if cond then s.setPc (s.relTarget 2 (sext16 rel)) else s.advance 2)

/-- CALL target (43_control_flow.md R208): the target is read with the old SP, then the return address is pushed. -/
def callTo (target : Except Fault Word) (len : Nat) (s : State) : Result State :=
  commit s do
    let t ← target
    let u ← s.push (s.next len)
    return u.setPc t

/-- RET and RET imm16 (43_control_flow.md R209): k bytes of arguments are released after the pop. -/
def returnReleasing (k : Word) (s : State) : Result State :=
  commit s do
    let p ← s.pop
    return (p.2.setReg .sp (p.2.regs.sp + k)).setPc p.1

/-- The pseudocode of the encodings rejected by name: raise UnsupportedInstruction(b0)
(44_halt_nop_rejected.md section 2). -/
def reject (b0 : Byte) (s : State) : Result State := raise (.unsupportedInstruction (.opcode b0)) s

end Sys2Proof.Machine
end

