-- ==== Sys2Proof/Machine/Arith.lean ====
section
/-! DEFINITION. Arithmetic: ADD, SUB, CMP, INC, DEC, MUL, DIV, IDIV (41_arithmetic.md R150 to R163). INC and DEC write CF, which the
spec says differs from the Intel 8086 (90_conflicts.md C2; log 11). DIV and IDIV write no flag (D20; log 10). -/

namespace Sys2Proof.Machine

/-- `00 /r` (R154). -/
def execAddRm8R8 (rm : RM8) (r : Reg8) (s : State) : Result State :=
  binary8 (· + ·) Flags.afterAdd rm (.rm (.reg r)) (2 + rm.dispBytes) s

/-- `01 /r` (R154). -/
def execAddRm16R16 (rm : RM16) (r : Reg16) (s : State) : Result State :=
  binary16 (· + ·) Flags.afterAdd rm (.rm (.reg r)) (2 + rm.dispBytes) s

/-- `02 /r` (R154). -/
def execAddR8Rm8 (r : Reg8) (rm : RM8) (s : State) : Result State :=
  binary8 (· + ·) Flags.afterAdd (.reg r) (.rm rm) (2 + rm.dispBytes) s

/-- `03 /r` (R154). -/
def execAddR16Rm16 (r : Reg16) (rm : RM16) (s : State) : Result State :=
  binary16 (· + ·) Flags.afterAdd (.reg r) (.rm rm) (2 + rm.dispBytes) s

/-- `04 ib` (R154). -/
def execAddAlImm8 (v : Byte) (s : State) : Result State :=
  binary8 (· + ·) Flags.afterAdd (.reg .al) (.imm v) 2 s

/-- `05 iw` (R154). -/
def execAddAxImm16 (v : Word) (s : State) : Result State :=
  binary16 (· + ·) Flags.afterAdd (.reg .ax) (.imm v) 3 s

/-- `80 /0 ib` (R154). -/
def execAddRm8Imm8 (rm : RM8) (v : Byte) (s : State) : Result State :=
  binary8 (· + ·) Flags.afterAdd rm (.imm v) (3 + rm.dispBytes) s

/-- `81 /0 iw` (R154). -/
def execAddRm16Imm16 (rm : RM16) (v : Word) (s : State) : Result State :=
  binary16 (· + ·) Flags.afterAdd rm (.imm v) (4 + rm.dispBytes) s

/-- `83 /0 ib` (R154). -/
def execAddRm16Simm8 (rm : RM16) (v : Byte) (s : State) : Result State :=
  binary16 (· + ·) Flags.afterAdd rm (.imm (sext16 v)) (3 + rm.dispBytes) s

/-- `28 /r` (R155). -/
def execSubRm8R8 (rm : RM8) (r : Reg8) (s : State) : Result State :=
  binary8 (· - ·) Flags.afterSub rm (.rm (.reg r)) (2 + rm.dispBytes) s

/-- `29 /r` (R155). -/
def execSubRm16R16 (rm : RM16) (r : Reg16) (s : State) : Result State :=
  binary16 (· - ·) Flags.afterSub rm (.rm (.reg r)) (2 + rm.dispBytes) s

/-- `2A /r` (R155). -/
def execSubR8Rm8 (r : Reg8) (rm : RM8) (s : State) : Result State :=
  binary8 (· - ·) Flags.afterSub (.reg r) (.rm rm) (2 + rm.dispBytes) s

/-- `2B /r` (R155). -/
def execSubR16Rm16 (r : Reg16) (rm : RM16) (s : State) : Result State :=
  binary16 (· - ·) Flags.afterSub (.reg r) (.rm rm) (2 + rm.dispBytes) s

/-- `2C ib` (R155). -/
def execSubAlImm8 (v : Byte) (s : State) : Result State :=
  binary8 (· - ·) Flags.afterSub (.reg .al) (.imm v) 2 s

/-- `2D iw` (R155). -/
def execSubAxImm16 (v : Word) (s : State) : Result State :=
  binary16 (· - ·) Flags.afterSub (.reg .ax) (.imm v) 3 s

/-- `80 /5 ib` (R155). -/
def execSubRm8Imm8 (rm : RM8) (v : Byte) (s : State) : Result State :=
  binary8 (· - ·) Flags.afterSub rm (.imm v) (3 + rm.dispBytes) s

/-- `81 /5 iw` (R155). -/
def execSubRm16Imm16 (rm : RM16) (v : Word) (s : State) : Result State :=
  binary16 (· - ·) Flags.afterSub rm (.imm v) (4 + rm.dispBytes) s

/-- `83 /5 ib` (R155). -/
def execSubRm16Simm8 (rm : RM16) (v : Byte) (s : State) : Result State :=
  binary16 (· - ·) Flags.afterSub rm (.imm (sext16 v)) (3 + rm.dispBytes) s

/-- `38 /r` (R156). -/
def execCmpRm8R8 (rm : RM8) (r : Reg8) (s : State) : Result State :=
  compare8 Flags.afterSub rm (.rm (.reg r)) (2 + rm.dispBytes) s

/-- `39 /r` (R156). -/
def execCmpRm16R16 (rm : RM16) (r : Reg16) (s : State) : Result State :=
  compare16 Flags.afterSub rm (.rm (.reg r)) (2 + rm.dispBytes) s

/-- `3A /r` (R156). -/
def execCmpR8Rm8 (r : Reg8) (rm : RM8) (s : State) : Result State :=
  compare8 Flags.afterSub (.reg r) (.rm rm) (2 + rm.dispBytes) s

/-- `3B /r` (R156). -/
def execCmpR16Rm16 (r : Reg16) (rm : RM16) (s : State) : Result State :=
  compare16 Flags.afterSub (.reg r) (.rm rm) (2 + rm.dispBytes) s

/-- `3C ib` (R156). -/
def execCmpAlImm8 (v : Byte) (s : State) : Result State :=
  compare8 Flags.afterSub (.reg .al) (.imm v) 2 s

/-- `3D iw` (R156). -/
def execCmpAxImm16 (v : Word) (s : State) : Result State :=
  compare16 Flags.afterSub (.reg .ax) (.imm v) 3 s

/-- `80 /7 ib` (R156). -/
def execCmpRm8Imm8 (rm : RM8) (v : Byte) (s : State) : Result State :=
  compare8 Flags.afterSub rm (.imm v) (3 + rm.dispBytes) s

/-- `81 /7 iw` (R156). -/
def execCmpRm16Imm16 (rm : RM16) (v : Word) (s : State) : Result State :=
  compare16 Flags.afterSub rm (.imm v) (4 + rm.dispBytes) s

/-- `83 /7 ib` (R156). -/
def execCmpRm16Simm8 (rm : RM16) (v : Byte) (s : State) : Result State :=
  compare16 Flags.afterSub rm (.imm (sext16 v)) (3 + rm.dispBytes) s

/-- `40+r` (R157). -/
def execIncR16 (r : Reg16) (s : State) : Result State :=
  unary16 (· + 1) (fun f a => f.afterAdd a 1) (.reg r) 1 s

/-- `FE /0` (R157). -/
def execIncRm8 (rm : RM8) (s : State) : Result State :=
  unary8 (· + 1) (fun f a => f.afterAdd a 1) rm (2 + rm.dispBytes) s

/-- `FF /0` (R157). -/
def execIncRm16 (rm : RM16) (s : State) : Result State :=
  unary16 (· + 1) (fun f a => f.afterAdd a 1) rm (2 + rm.dispBytes) s

/-- `48+r` (R158). -/
def execDecR16 (r : Reg16) (s : State) : Result State :=
  unary16 (· - 1) (fun f a => f.afterSub a 1) (.reg r) 1 s

/-- `FE /1` (R158). -/
def execDecRm8 (rm : RM8) (s : State) : Result State :=
  unary8 (· - 1) (fun f a => f.afterSub a 1) rm (2 + rm.dispBytes) s

/-- `FF /1` (R158). -/
def execDecRm16 (rm : RM16) (s : State) : Result State :=
  unary16 (· - 1) (fun f a => f.afterSub a 1) rm (2 + rm.dispBytes) s

/-- `F6 /4` (R159). -/
def execMulRm8 (rm : RM8) (s : State) : Result State :=
  mul8 rm (2 + rm.dispBytes) s

/-- `F7 /4` (R159). -/
def execMulRm16 (rm : RM16) (s : State) : Result State :=
  mul16 rm (2 + rm.dispBytes) s

/-- `F6 /6` (R160). -/
def execDivRm8 (rm : RM8) (s : State) : Result State :=
  div8 rm (2 + rm.dispBytes) s

/-- `F7 /6` (R160). -/
def execDivRm16 (rm : RM16) (s : State) : Result State :=
  div16 rm (2 + rm.dispBytes) s

/-- `F6 /7` (R161). -/
def execIdivRm8 (rm : RM8) (s : State) : Result State :=
  idiv8 rm (2 + rm.dispBytes) s

/-- `F7 /7` (R161). -/
def execIdivRm16 (rm : RM16) (s : State) : Result State :=
  idiv16 rm (2 + rm.dispBytes) s

end Sys2Proof.Machine
end

