-- ==== Sys2Proof/Machine/Control.lean ====
section
/-! DEFINITION. Control flow: JMP, the sixteen conditional jumps, CALL, RET, LOOP (43_control_flow.md R190 to R212). Flags are read, never
written; targets are not checked (R211). -/

namespace Sys2Proof.Machine

/-- `EB cb` (R191). -/
def execJmpRel8 (d : Byte) (s : State) : Result State :=
  jumpTo (.ok (s.relTarget 2 (sext16 d))) s

/-- `E9 cw` (R191). -/
def execJmpRel16 (d : Word) (s : State) : Result State :=
  jumpTo (.ok (s.relTarget 3 d)) s

/-- `FF /4` (R191). -/
def execJmpRm16 (rm : RM16) (s : State) : Result State :=
  jumpTo (readRM16 s rm) s

/-- `70 cb` (R192). -/
def execJo (d : Byte) (s : State) : Result State :=
  branchIf s.flags.overflow d s

/-- `71 cb` (R193). -/
def execJno (d : Byte) (s : State) : Result State :=
  branchIf (!s.flags.overflow) d s

/-- `72 cb` (R194). -/
def execJb (d : Byte) (s : State) : Result State :=
  branchIf s.flags.carry d s

/-- `73 cb` (R195). -/
def execJnb (d : Byte) (s : State) : Result State :=
  branchIf (!s.flags.carry) d s

/-- `74 cb` (R196). -/
def execJe (d : Byte) (s : State) : Result State :=
  branchIf s.flags.zero d s

/-- `75 cb` (R197). -/
def execJne (d : Byte) (s : State) : Result State :=
  branchIf (!s.flags.zero) d s

/-- `76 cb` (R198). -/
def execJbe (d : Byte) (s : State) : Result State :=
  branchIf (s.flags.carry || s.flags.zero) d s

/-- `77 cb` (R199). -/
def execJnbe (d : Byte) (s : State) : Result State :=
  branchIf (!s.flags.carry && !s.flags.zero) d s

/-- `78 cb` (R200). -/
def execJs (d : Byte) (s : State) : Result State :=
  branchIf s.flags.sign d s

/-- `79 cb` (R201). -/
def execJns (d : Byte) (s : State) : Result State :=
  branchIf (!s.flags.sign) d s

/-- `7A cb` (R202). -/
def execJp (d : Byte) (s : State) : Result State :=
  branchIf s.flags.parity d s

/-- `7B cb` (R203). -/
def execJnp (d : Byte) (s : State) : Result State :=
  branchIf (!s.flags.parity) d s

/-- `7C cb` (R204). -/
def execJl (d : Byte) (s : State) : Result State :=
  branchIf (s.flags.sign != s.flags.overflow) d s

/-- `7D cb` (R205). -/
def execJnl (d : Byte) (s : State) : Result State :=
  branchIf (s.flags.sign == s.flags.overflow) d s

/-- `7E cb` (R206). -/
def execJle (d : Byte) (s : State) : Result State :=
  branchIf (s.flags.zero || s.flags.sign != s.flags.overflow) d s

/-- `7F cb` (R207). -/
def execJnle (d : Byte) (s : State) : Result State :=
  branchIf (!s.flags.zero && s.flags.sign == s.flags.overflow) d s

/-- `E8 cw` (R208). -/
def execCallRel16 (d : Word) (s : State) : Result State :=
  callTo (.ok (s.relTarget 3 d)) 3 s

/-- `FF /2` (R208). -/
def execCallRm16 (rm : RM16) (s : State) : Result State :=
  callTo (readRM16 s rm) (2 + rm.dispBytes) s

/-- `C3` (R209). -/
def execRet (s : State) : Result State :=
  returnReleasing 0 s

/-- `C2 iw` (R209). -/
def execRetImm16 (v : Word) (s : State) : Result State :=
  returnReleasing v s

/-- `E2 cb` (R210). -/
def execLoop (d : Byte) (s : State) : Result State :=
  let t := s.setReg .cx (s.regs.cx - 1)
  branchIf (t.regs.cx != 0) d t

end Sys2Proof.Machine
end

