-- ==== Sys2Proof/Machine/Halt.lean ====
section
/-! DEFINITION. HLT, NOP (44_halt_nop_rejected.md R230, R231), and the encodings rejected by name: IN, OUT, LOCK, WAIT (R232 to R235). -/

namespace Sys2Proof.Machine

/-- `F4` (R230). -/
def execHlt (s : State) : Result State :=
  .next { s.advance 1 with status := .halted .hltExecuted }

/-- `90` (R231). -/
def execNop (s : State) : Result State :=
  .next (s.advance 1)

/-- `E4` (R232). -/
def execInAlImm8 (s : State) : Result State :=
  reject 0xE4 s

/-- `E5` (R232). -/
def execInAxImm8 (s : State) : Result State :=
  reject 0xE5 s

/-- `EC` (R232). -/
def execInAlDx (s : State) : Result State :=
  reject 0xEC s

/-- `ED` (R232). -/
def execInAxDx (s : State) : Result State :=
  reject 0xED s

/-- `E6` (R233). -/
def execOutImm8Al (s : State) : Result State :=
  reject 0xE6 s

/-- `E7` (R233). -/
def execOutImm8Ax (s : State) : Result State :=
  reject 0xE7 s

/-- `EE` (R233). -/
def execOutDxAl (s : State) : Result State :=
  reject 0xEE s

/-- `EF` (R233). -/
def execOutDxAx (s : State) : Result State :=
  reject 0xEF s

/-- `F0` (R234). -/
def execLock (s : State) : Result State :=
  reject 0xF0 s

/-- `9B` (R235). -/
def execWait (s : State) : Result State :=
  reject 0x9B s

end Sys2Proof.Machine
end

