-- ==== Sys2Proof/Machine/Logic.lean ====
section
/-! DEFINITION. Logic: AND, OR, XOR, NOT (42_logic.md R180 to R184). NOT writes flags, which the spec says differs from the Intel 8086
(90_conflicts.md C2; log 11). -/

namespace Sys2Proof.Machine

/-- `08 /r` (R182). -/
def execOrRm8R8 (rm : RM8) (r : Reg8) (s : State) : Result State :=
  binary8 (· ||| ·) (fun f a b => f.afterLogic (a ||| b)) rm (.rm (.reg r)) (2 + rm.dispBytes) s

/-- `09 /r` (R182). -/
def execOrRm16R16 (rm : RM16) (r : Reg16) (s : State) : Result State :=
  binary16 (· ||| ·) (fun f a b => f.afterLogic (a ||| b)) rm (.rm (.reg r)) (2 + rm.dispBytes) s

/-- `0A /r` (R182). -/
def execOrR8Rm8 (r : Reg8) (rm : RM8) (s : State) : Result State :=
  binary8 (· ||| ·) (fun f a b => f.afterLogic (a ||| b)) (.reg r) (.rm rm) (2 + rm.dispBytes) s

/-- `0B /r` (R182). -/
def execOrR16Rm16 (r : Reg16) (rm : RM16) (s : State) : Result State :=
  binary16 (· ||| ·) (fun f a b => f.afterLogic (a ||| b)) (.reg r) (.rm rm) (2 + rm.dispBytes) s

/-- `0C ib` (R182). -/
def execOrAlImm8 (v : Byte) (s : State) : Result State :=
  binary8 (· ||| ·) (fun f a b => f.afterLogic (a ||| b)) (.reg .al) (.imm v) 2 s

/-- `0D iw` (R182). -/
def execOrAxImm16 (v : Word) (s : State) : Result State :=
  binary16 (· ||| ·) (fun f a b => f.afterLogic (a ||| b)) (.reg .ax) (.imm v) 3 s

/-- `80 /1 ib` (R182). -/
def execOrRm8Imm8 (rm : RM8) (v : Byte) (s : State) : Result State :=
  binary8 (· ||| ·) (fun f a b => f.afterLogic (a ||| b)) rm (.imm v) (3 + rm.dispBytes) s

/-- `81 /1 iw` (R182). -/
def execOrRm16Imm16 (rm : RM16) (v : Word) (s : State) : Result State :=
  binary16 (· ||| ·) (fun f a b => f.afterLogic (a ||| b)) rm (.imm v) (4 + rm.dispBytes) s

/-- `83 /1 ib` (R182). -/
def execOrRm16Simm8 (rm : RM16) (v : Byte) (s : State) : Result State :=
  binary16 (· ||| ·) (fun f a b => f.afterLogic (a ||| b)) rm (.imm (sext16 v)) (3 + rm.dispBytes) s

/-- `20 /r` (R181). -/
def execAndRm8R8 (rm : RM8) (r : Reg8) (s : State) : Result State :=
  binary8 (· &&& ·) (fun f a b => f.afterLogic (a &&& b)) rm (.rm (.reg r)) (2 + rm.dispBytes) s

/-- `21 /r` (R181). -/
def execAndRm16R16 (rm : RM16) (r : Reg16) (s : State) : Result State :=
  binary16 (· &&& ·) (fun f a b => f.afterLogic (a &&& b)) rm (.rm (.reg r)) (2 + rm.dispBytes) s

/-- `22 /r` (R181). -/
def execAndR8Rm8 (r : Reg8) (rm : RM8) (s : State) : Result State :=
  binary8 (· &&& ·) (fun f a b => f.afterLogic (a &&& b)) (.reg r) (.rm rm) (2 + rm.dispBytes) s

/-- `23 /r` (R181). -/
def execAndR16Rm16 (r : Reg16) (rm : RM16) (s : State) : Result State :=
  binary16 (· &&& ·) (fun f a b => f.afterLogic (a &&& b)) (.reg r) (.rm rm) (2 + rm.dispBytes) s

/-- `24 ib` (R181). -/
def execAndAlImm8 (v : Byte) (s : State) : Result State :=
  binary8 (· &&& ·) (fun f a b => f.afterLogic (a &&& b)) (.reg .al) (.imm v) 2 s

/-- `25 iw` (R181). -/
def execAndAxImm16 (v : Word) (s : State) : Result State :=
  binary16 (· &&& ·) (fun f a b => f.afterLogic (a &&& b)) (.reg .ax) (.imm v) 3 s

/-- `80 /4 ib` (R181). -/
def execAndRm8Imm8 (rm : RM8) (v : Byte) (s : State) : Result State :=
  binary8 (· &&& ·) (fun f a b => f.afterLogic (a &&& b)) rm (.imm v) (3 + rm.dispBytes) s

/-- `81 /4 iw` (R181). -/
def execAndRm16Imm16 (rm : RM16) (v : Word) (s : State) : Result State :=
  binary16 (· &&& ·) (fun f a b => f.afterLogic (a &&& b)) rm (.imm v) (4 + rm.dispBytes) s

/-- `83 /4 ib` (R181). -/
def execAndRm16Simm8 (rm : RM16) (v : Byte) (s : State) : Result State :=
  binary16 (· &&& ·) (fun f a b => f.afterLogic (a &&& b)) rm (.imm (sext16 v)) (3 + rm.dispBytes) s

/-- `30 /r` (R183). -/
def execXorRm8R8 (rm : RM8) (r : Reg8) (s : State) : Result State :=
  binary8 (· ^^^ ·) (fun f a b => f.afterLogic (a ^^^ b)) rm (.rm (.reg r)) (2 + rm.dispBytes) s

/-- `31 /r` (R183). -/
def execXorRm16R16 (rm : RM16) (r : Reg16) (s : State) : Result State :=
  binary16 (· ^^^ ·) (fun f a b => f.afterLogic (a ^^^ b)) rm (.rm (.reg r)) (2 + rm.dispBytes) s

/-- `32 /r` (R183). -/
def execXorR8Rm8 (r : Reg8) (rm : RM8) (s : State) : Result State :=
  binary8 (· ^^^ ·) (fun f a b => f.afterLogic (a ^^^ b)) (.reg r) (.rm rm) (2 + rm.dispBytes) s

/-- `33 /r` (R183). -/
def execXorR16Rm16 (r : Reg16) (rm : RM16) (s : State) : Result State :=
  binary16 (· ^^^ ·) (fun f a b => f.afterLogic (a ^^^ b)) (.reg r) (.rm rm) (2 + rm.dispBytes) s

/-- `34 ib` (R183). -/
def execXorAlImm8 (v : Byte) (s : State) : Result State :=
  binary8 (· ^^^ ·) (fun f a b => f.afterLogic (a ^^^ b)) (.reg .al) (.imm v) 2 s

/-- `35 iw` (R183). -/
def execXorAxImm16 (v : Word) (s : State) : Result State :=
  binary16 (· ^^^ ·) (fun f a b => f.afterLogic (a ^^^ b)) (.reg .ax) (.imm v) 3 s

/-- `80 /6 ib` (R183). -/
def execXorRm8Imm8 (rm : RM8) (v : Byte) (s : State) : Result State :=
  binary8 (· ^^^ ·) (fun f a b => f.afterLogic (a ^^^ b)) rm (.imm v) (3 + rm.dispBytes) s

/-- `81 /6 iw` (R183). -/
def execXorRm16Imm16 (rm : RM16) (v : Word) (s : State) : Result State :=
  binary16 (· ^^^ ·) (fun f a b => f.afterLogic (a ^^^ b)) rm (.imm v) (4 + rm.dispBytes) s

/-- `83 /6 ib` (R183). -/
def execXorRm16Simm8 (rm : RM16) (v : Byte) (s : State) : Result State :=
  binary16 (· ^^^ ·) (fun f a b => f.afterLogic (a ^^^ b)) rm (.imm (sext16 v)) (3 + rm.dispBytes) s

/-- `F6 /2` (R184). -/
def execNotRm8 (rm : RM8) (s : State) : Result State :=
  unary8 (fun a => ~~~a) (fun f a => f.afterLogic (~~~a)) rm (2 + rm.dispBytes) s

/-- `F7 /2` (R184). -/
def execNotRm16 (rm : RM16) (s : State) : Result State :=
  unary16 (fun a => ~~~a) (fun f a => f.afterLogic (~~~a)) rm (2 + rm.dispBytes) s

end Sys2Proof.Machine
end

