-- ==== Sys2Proof/Machine/Move.lean ====
section
/-! DEFINITION. Data movement: MOV, PUSH, POP (40_data_movement.md R130 to R133). No flag is written. -/

namespace Sys2Proof.Machine

/-- `88 /r` (R131). -/
def execMovRm8R8 (rm : RM8) (r : Reg8) (s : State) : Result State :=
  move8 rm (.rm (.reg r)) (2 + rm.dispBytes) s

/-- `89 /r` (R131). -/
def execMovRm16R16 (rm : RM16) (r : Reg16) (s : State) : Result State :=
  move16 rm (.rm (.reg r)) (2 + rm.dispBytes) s

/-- `8A /r` (R131). -/
def execMovR8Rm8 (r : Reg8) (rm : RM8) (s : State) : Result State :=
  move8 (.reg r) (.rm rm) (2 + rm.dispBytes) s

/-- `8B /r` (R131). -/
def execMovR16Rm16 (r : Reg16) (rm : RM16) (s : State) : Result State :=
  move16 (.reg r) (.rm rm) (2 + rm.dispBytes) s

/-- `A0 lo hi` (R131). -/
def execMovAlMoffs (a : Word) (s : State) : Result State :=
  move8 (.reg .al) (.rm (.mem (.direct a))) 3 s

/-- `A1 lo hi` (R131). -/
def execMovAxMoffs (a : Word) (s : State) : Result State :=
  move16 (.reg .ax) (.rm (.mem (.direct a))) 3 s

/-- `A2 lo hi` (R131). -/
def execMovMoffsAl (a : Word) (s : State) : Result State :=
  move8 (.mem (.direct a)) (.rm (.reg .al)) 3 s

/-- `A3 lo hi` (R131). -/
def execMovMoffsAx (a : Word) (s : State) : Result State :=
  move16 (.mem (.direct a)) (.rm (.reg .ax)) 3 s

/-- `B0+r ib` (R131). -/
def execMovR8Imm8 (r : Reg8) (v : Byte) (s : State) : Result State :=
  move8 (.reg r) (.imm v) 2 s

/-- `B8+r iw` (R131). -/
def execMovR16Imm16 (r : Reg16) (v : Word) (s : State) : Result State :=
  move16 (.reg r) (.imm v) 3 s

/-- `C6 /0 ib` (R131). -/
def execMovRm8Imm8 (rm : RM8) (v : Byte) (s : State) : Result State :=
  move8 rm (.imm v) (3 + rm.dispBytes) s

/-- `C7 /0 iw` (R131). -/
def execMovRm16Imm16 (rm : RM16) (v : Word) (s : State) : Result State :=
  move16 rm (.imm v) (4 + rm.dispBytes) s

/-- `50+r` (R132). -/
def execPushR16 (r : Reg16) (s : State) : Result State :=
  pushShape (.reg r) 1 s

/-- `FF /6` (R132). -/
def execPushRm16 (rm : RM16) (s : State) : Result State :=
  pushShape rm (2 + rm.dispBytes) s

/-- `58+r` (R133). -/
def execPopR16 (r : Reg16) (s : State) : Result State :=
  popShape (.reg r) 1 s

/-- `8F /0` (R133). -/
def execPopRm16 (rm : RM16) (s : State) : Result State :=
  popShape rm (2 + rm.dispBytes) s

end Sys2Proof.Machine
end

