-- ==== Sys2Proof/Machine/Dispatch.lean ====
section
/-! DEFINITION. One arm for each constructor of `Instr`: the meaning of the instruction. -/

namespace Sys2Proof.Machine

def exec (i : Instr) (s : State) : Host.Outcome State Fault Refusal :=
  match i with
  | .addRm8R8 rm r => Sys2Proof.Machine.execAddRm8R8 rm r s
  | .addRm16R16 rm r => Sys2Proof.Machine.execAddRm16R16 rm r s
  | .addR8Rm8 r rm => Sys2Proof.Machine.execAddR8Rm8 r rm s
  | .addR16Rm16 r rm => Sys2Proof.Machine.execAddR16Rm16 r rm s
  | .addAlImm8 v => Sys2Proof.Machine.execAddAlImm8 v s
  | .addAxImm16 v => Sys2Proof.Machine.execAddAxImm16 v s
  | .addRm8Imm8 rm v => Sys2Proof.Machine.execAddRm8Imm8 rm v s
  | .addRm16Imm16 rm v => Sys2Proof.Machine.execAddRm16Imm16 rm v s
  | .addRm16Simm8 rm v => Sys2Proof.Machine.execAddRm16Simm8 rm v s
  | .orRm8R8 rm r => Sys2Proof.Machine.execOrRm8R8 rm r s
  | .orRm16R16 rm r => Sys2Proof.Machine.execOrRm16R16 rm r s
  | .orR8Rm8 r rm => Sys2Proof.Machine.execOrR8Rm8 r rm s
  | .orR16Rm16 r rm => Sys2Proof.Machine.execOrR16Rm16 r rm s
  | .orAlImm8 v => Sys2Proof.Machine.execOrAlImm8 v s
  | .orAxImm16 v => Sys2Proof.Machine.execOrAxImm16 v s
  | .orRm8Imm8 rm v => Sys2Proof.Machine.execOrRm8Imm8 rm v s
  | .orRm16Imm16 rm v => Sys2Proof.Machine.execOrRm16Imm16 rm v s
  | .orRm16Simm8 rm v => Sys2Proof.Machine.execOrRm16Simm8 rm v s
  | .andRm8R8 rm r => Sys2Proof.Machine.execAndRm8R8 rm r s
  | .andRm16R16 rm r => Sys2Proof.Machine.execAndRm16R16 rm r s
  | .andR8Rm8 r rm => Sys2Proof.Machine.execAndR8Rm8 r rm s
  | .andR16Rm16 r rm => Sys2Proof.Machine.execAndR16Rm16 r rm s
  | .andAlImm8 v => Sys2Proof.Machine.execAndAlImm8 v s
  | .andAxImm16 v => Sys2Proof.Machine.execAndAxImm16 v s
  | .andRm8Imm8 rm v => Sys2Proof.Machine.execAndRm8Imm8 rm v s
  | .andRm16Imm16 rm v => Sys2Proof.Machine.execAndRm16Imm16 rm v s
  | .andRm16Simm8 rm v => Sys2Proof.Machine.execAndRm16Simm8 rm v s
  | .subRm8R8 rm r => Sys2Proof.Machine.execSubRm8R8 rm r s
  | .subRm16R16 rm r => Sys2Proof.Machine.execSubRm16R16 rm r s
  | .subR8Rm8 r rm => Sys2Proof.Machine.execSubR8Rm8 r rm s
  | .subR16Rm16 r rm => Sys2Proof.Machine.execSubR16Rm16 r rm s
  | .subAlImm8 v => Sys2Proof.Machine.execSubAlImm8 v s
  | .subAxImm16 v => Sys2Proof.Machine.execSubAxImm16 v s
  | .subRm8Imm8 rm v => Sys2Proof.Machine.execSubRm8Imm8 rm v s
  | .subRm16Imm16 rm v => Sys2Proof.Machine.execSubRm16Imm16 rm v s
  | .subRm16Simm8 rm v => Sys2Proof.Machine.execSubRm16Simm8 rm v s
  | .xorRm8R8 rm r => Sys2Proof.Machine.execXorRm8R8 rm r s
  | .xorRm16R16 rm r => Sys2Proof.Machine.execXorRm16R16 rm r s
  | .xorR8Rm8 r rm => Sys2Proof.Machine.execXorR8Rm8 r rm s
  | .xorR16Rm16 r rm => Sys2Proof.Machine.execXorR16Rm16 r rm s
  | .xorAlImm8 v => Sys2Proof.Machine.execXorAlImm8 v s
  | .xorAxImm16 v => Sys2Proof.Machine.execXorAxImm16 v s
  | .xorRm8Imm8 rm v => Sys2Proof.Machine.execXorRm8Imm8 rm v s
  | .xorRm16Imm16 rm v => Sys2Proof.Machine.execXorRm16Imm16 rm v s
  | .xorRm16Simm8 rm v => Sys2Proof.Machine.execXorRm16Simm8 rm v s
  | .cmpRm8R8 rm r => Sys2Proof.Machine.execCmpRm8R8 rm r s
  | .cmpRm16R16 rm r => Sys2Proof.Machine.execCmpRm16R16 rm r s
  | .cmpR8Rm8 r rm => Sys2Proof.Machine.execCmpR8Rm8 r rm s
  | .cmpR16Rm16 r rm => Sys2Proof.Machine.execCmpR16Rm16 r rm s
  | .cmpAlImm8 v => Sys2Proof.Machine.execCmpAlImm8 v s
  | .cmpAxImm16 v => Sys2Proof.Machine.execCmpAxImm16 v s
  | .cmpRm8Imm8 rm v => Sys2Proof.Machine.execCmpRm8Imm8 rm v s
  | .cmpRm16Imm16 rm v => Sys2Proof.Machine.execCmpRm16Imm16 rm v s
  | .cmpRm16Simm8 rm v => Sys2Proof.Machine.execCmpRm16Simm8 rm v s
  | .movRm8R8 rm r => Sys2Proof.Machine.execMovRm8R8 rm r s
  | .movRm16R16 rm r => Sys2Proof.Machine.execMovRm16R16 rm r s
  | .movR8Rm8 r rm => Sys2Proof.Machine.execMovR8Rm8 r rm s
  | .movR16Rm16 r rm => Sys2Proof.Machine.execMovR16Rm16 r rm s
  | .movAlMoffs a => Sys2Proof.Machine.execMovAlMoffs a s
  | .movAxMoffs a => Sys2Proof.Machine.execMovAxMoffs a s
  | .movMoffsAl a => Sys2Proof.Machine.execMovMoffsAl a s
  | .movMoffsAx a => Sys2Proof.Machine.execMovMoffsAx a s
  | .movR8Imm8 r v => Sys2Proof.Machine.execMovR8Imm8 r v s
  | .movR16Imm16 r v => Sys2Proof.Machine.execMovR16Imm16 r v s
  | .movRm8Imm8 rm v => Sys2Proof.Machine.execMovRm8Imm8 rm v s
  | .movRm16Imm16 rm v => Sys2Proof.Machine.execMovRm16Imm16 rm v s
  | .pushR16 r => Sys2Proof.Machine.execPushR16 r s
  | .pushRm16 rm => Sys2Proof.Machine.execPushRm16 rm s
  | .popR16 r => Sys2Proof.Machine.execPopR16 r s
  | .popRm16 rm => Sys2Proof.Machine.execPopRm16 rm s
  | .incR16 r => Sys2Proof.Machine.execIncR16 r s
  | .incRm8 rm => Sys2Proof.Machine.execIncRm8 rm s
  | .incRm16 rm => Sys2Proof.Machine.execIncRm16 rm s
  | .decR16 r => Sys2Proof.Machine.execDecR16 r s
  | .decRm8 rm => Sys2Proof.Machine.execDecRm8 rm s
  | .decRm16 rm => Sys2Proof.Machine.execDecRm16 rm s
  | .notRm8 rm => Sys2Proof.Machine.execNotRm8 rm s
  | .notRm16 rm => Sys2Proof.Machine.execNotRm16 rm s
  | .mulRm8 rm => Sys2Proof.Machine.execMulRm8 rm s
  | .mulRm16 rm => Sys2Proof.Machine.execMulRm16 rm s
  | .divRm8 rm => Sys2Proof.Machine.execDivRm8 rm s
  | .divRm16 rm => Sys2Proof.Machine.execDivRm16 rm s
  | .idivRm8 rm => Sys2Proof.Machine.execIdivRm8 rm s
  | .idivRm16 rm => Sys2Proof.Machine.execIdivRm16 rm s
  | .jmpRel8 d => Sys2Proof.Machine.execJmpRel8 d s
  | .jmpRel16 d => Sys2Proof.Machine.execJmpRel16 d s
  | .jmpRm16 rm => Sys2Proof.Machine.execJmpRm16 rm s
  | .jo d => Sys2Proof.Machine.execJo d s
  | .jno d => Sys2Proof.Machine.execJno d s
  | .jb d => Sys2Proof.Machine.execJb d s
  | .jnb d => Sys2Proof.Machine.execJnb d s
  | .je d => Sys2Proof.Machine.execJe d s
  | .jne d => Sys2Proof.Machine.execJne d s
  | .jbe d => Sys2Proof.Machine.execJbe d s
  | .jnbe d => Sys2Proof.Machine.execJnbe d s
  | .js d => Sys2Proof.Machine.execJs d s
  | .jns d => Sys2Proof.Machine.execJns d s
  | .jp d => Sys2Proof.Machine.execJp d s
  | .jnp d => Sys2Proof.Machine.execJnp d s
  | .jl d => Sys2Proof.Machine.execJl d s
  | .jnl d => Sys2Proof.Machine.execJnl d s
  | .jle d => Sys2Proof.Machine.execJle d s
  | .jnle d => Sys2Proof.Machine.execJnle d s
  | .callRel16 d => Sys2Proof.Machine.execCallRel16 d s
  | .callRm16 rm => Sys2Proof.Machine.execCallRm16 rm s
  | .ret => Sys2Proof.Machine.execRet s
  | .retImm16 v => Sys2Proof.Machine.execRetImm16 v s
  | .loop d => Sys2Proof.Machine.execLoop d s
  | .hlt => Sys2Proof.Machine.execHlt s
  | .nop => Sys2Proof.Machine.execNop s
  | .inAlImm8 => Sys2Proof.Machine.execInAlImm8 s
  | .inAxImm8 => Sys2Proof.Machine.execInAxImm8 s
  | .inAlDx => Sys2Proof.Machine.execInAlDx s
  | .inAxDx => Sys2Proof.Machine.execInAxDx s
  | .outImm8Al => Sys2Proof.Machine.execOutImm8Al s
  | .outImm8Ax => Sys2Proof.Machine.execOutImm8Ax s
  | .outDxAl => Sys2Proof.Machine.execOutDxAl s
  | .outDxAx => Sys2Proof.Machine.execOutDxAx s
  | .lock => Sys2Proof.Machine.execLock s
  | .wait => Sys2Proof.Machine.execWait s

end Sys2Proof.Machine
end

