-- ==== Sys2Proof/Machine/Step.lean ====
section
/-! DEFINITION. One step: one pass of the run loop (70_reset_and_hazards.md R298, R297, in the order of 60_exceptions.md
R259), and how an instruction is placed where the next step fetches. -/

namespace Sys2Proof.Machine

/-- One pass of the loop of R298. A terminal state is left as it is (10_state.md R39, R300); the end-of-program check and
the budget check write Status only; a step that begins is counted, whether it completes or faults (10_state.md R40).
(Logs 1 and 2.) -/
def step (s : State) : Host.Outcome State Fault Refusal :=
  match s.status with
  | .halted _ => .next s
  | .faulted _ => .next s
  | .running =>
    if s.inWindow then
      if s.steps = s.params.maxSteps then raise .stepLimitExceeded s
      else
        match s.fetchDecode with
        | .error u => raise (.unsupportedInstruction u) s.countStep
        | .ok i => exec i s.countStep
    else .next s.endOfProgram

/-- The session with the bytes of a table word (30_encoding.md section 9; six bytes, those above `nbits` zero) stored at pc,
and all that the next step needs to fetch and run them: Status Running, an image window that holds them (as far as memory
reaches), and a budget that is not used up. It stands for the load of a program (log 3). -/
def State.withFetchWord (s : State) (nbits w : Nat) : State :=
  let bytes := (tableBytes nbits w).take (s.memSize - s.pc.toNat)
  let base := if s.params.imageBase.toNat ≤ s.pc.toNat then s.params.imageBase else s.pc
  { s with
    mem    := s.mem.writeBytes s.pc.toNat bytes
    status := .running
    params := { s.params with
      imageBase := base
      imageLen  := max s.imageEnd (s.pc.toNat + bytes.length) - base.toNat
      maxSteps  := max s.params.maxSteps (s.steps + 1) } }

end Sys2Proof.Machine
end

