-- ==== Sys2Proof/Machine/Effects.lean ====
section
/-! DEFINITION. What an instruction may touch, as tables over the syntax, and operands as plain values: the words in which
the claims about meanings and frames are stated. `exec` does not use this file. -/

namespace Sys2Proof.Machine

/-! ## Operands as values -/

/-- The access to an r/m8 operand is inside memory (20_memory.md R55); a register always is. -/
def inRange8 (s : State) : RM8 → Bool
  | .reg _ => true
  | .mem m => decide ((effAddr s.regs m).toNat < s.memSize)

/-- The access to an r/m16 operand is inside memory, both bytes (20_memory.md R55); a register always is. -/
def inRange16 (s : State) : RM16 → Bool
  | .reg _ => true
  | .mem m => decide ((effAddr s.regs m).toNat + 1 < s.memSize)

/-- The value an r/m8 operand holds. -/
def value8 (s : State) : RM8 → Byte
  | .reg r => s.regs.get8 r
  | .mem m => s.mem.read (effAddr s.regs m).toNat

/-- The value an r/m16 operand holds. -/
def value16 (s : State) : RM16 → Word
  | .reg r => s.regs.get r
  | .mem m => s.mem.readWord (effAddr s.regs m).toNat

/-- The state with an r/m8 operand written. -/
def put8 (s : State) (d : RM8) (v : Byte) : State :=
  match d with
  | .reg r => s.setReg8 r v
  | .mem m => { s with mem := s.mem.write (effAddr s.regs m).toNat v }

/-- The state with an r/m16 operand written. -/
def put16 (s : State) (d : RM16) (v : Word) : State :=
  match d with
  | .reg r => s.setReg r v
  | .mem m => { s with mem := s.mem.writeWord (effAddr s.regs m).toNat v }

/-- The access to a byte source is inside memory; an immediate always is. -/
def srcInRange8 (s : State) : Src8 → Bool
  | .rm x => inRange8 s x
  | .imm _ => true

/-- The access to a word source is inside memory; an immediate always is. -/
def srcInRange16 (s : State) : Src16 → Bool
  | .rm x => inRange16 s x
  | .imm _ => true

/-- The value of a byte source. -/
def srcValue8 (s : State) : Src8 → Byte
  | .rm x => value8 s x
  | .imm v => v

/-- The value of a word source. -/
def srcValue16 (s : State) : Src16 → Word
  | .rm x => value16 s x
  | .imm v => v

/-- The word at SP can be read (43_control_flow.md R209, 40_data_movement.md R133). -/
def popInRange (s : State) : Bool := decide (s.regs.sp.toNat + 1 < s.memSize)

/-- The word below SP can be written (40_data_movement.md R132). -/
def pushInRange (s : State) : Bool := decide (s.loweredSp.toNat + 1 < s.memSize)

/-- The state with a word pushed (20_memory.md R68). -/
def pushed (s : State) (v : Word) : State :=
  { s with mem := s.mem.writeWord s.loweredSp.toNat v, regs := s.regs.set .sp s.loweredSp }

/-! ## Names for the parts of the state -/

/-- Half of a 16-bit register: the register, and whether it is the high half. -/
abbrev RegHalf := Reg16 × Bool

/-- The value of a register half. -/
def Regs.half (g : Regs) (h : RegHalf) : Byte := if h.2 then highByte (g.get h.1) else lowByte (g.get h.1)

/-- Both halves of a register. -/
def bothHalves (r : Reg16) : List RegHalf := [(r, false), (r, true)]

/-- The halves an r/m8 destination covers. -/
def rm8Halves : RM8 → List RegHalf
  | .reg r => [(wholeOf r, isHigh r)]
  | .mem _ => []

/-- The halves an r/m16 destination covers. -/
def rm16Halves : RM16 → List RegHalf
  | .reg r => bothHalves r
  | .mem _ => []

/-- The addresses of a word. -/
def wordAt (a : Word) : List Nat := [a.toNat, a.toNat + 1]

/-- The addresses an r/m8 destination covers. -/
def rm8Cells (s : State) : RM8 → List Nat
  | .reg _ => []
  | .mem m => [(effAddr s.regs m).toNat]

/-- The addresses an r/m16 destination covers. -/
def rm16Cells (s : State) : RM16 → List Nat
  | .reg _ => []
  | .mem m => wordAt (effAddr s.regs m)

/-- The nine flags by the names of 10_state.md R29. -/
inductive FlagName where
  | cf | pf | af | zf | sf | tf | if_ | df | of_
  deriving DecidableEq, Repr

/-- The value of a flag. -/
def Flags.get (f : Flags) : FlagName → Bool
  | .cf => f.carry
  | .pf => f.parity
  | .af => f.aux
  | .zf => f.zero
  | .sf => f.sign
  | .tf => f.trap
  | .if_ => f.interrupt
  | .df => f.direction
  | .of_ => f.overflow

/-- The flags of addition and subtraction (10_state.md R29). -/
def arithFlags : List FlagName := [.cf, .pf, .af, .zf, .sf, .of_]

/-- The flags of the logic instructions (10_state.md R29): not AF. -/
def logicFlags : List FlagName := [.cf, .pf, .zf, .sf, .of_]

/-- The flags of MUL (10_state.md R29). -/
def mulFlags : List FlagName := [.cf, .of_]

/-! ## The tables -/

/-- The register halves an instruction may write: its destination, and the registers its rule names beside it (SP for PUSH,
POP, CALL, RET; AX and DX for MUL, DIV, IDIV; CX for LOOP) (10_state.md R24). -/
def instrHalves : Instr → List RegHalf
  | .addRm8R8 rm _ => rm8Halves rm
  | .addRm16R16 rm _ => rm16Halves rm
  | .addR8Rm8 r _ => [(wholeOf r, isHigh r)]
  | .addR16Rm16 r _ => bothHalves r
  | .addAlImm8 _ => [(.ax, false)]
  | .addAxImm16 _ => bothHalves .ax
  | .addRm8Imm8 rm _ => rm8Halves rm
  | .addRm16Imm16 rm _ => rm16Halves rm
  | .addRm16Simm8 rm _ => rm16Halves rm
  | .orRm8R8 rm _ => rm8Halves rm
  | .orRm16R16 rm _ => rm16Halves rm
  | .orR8Rm8 r _ => [(wholeOf r, isHigh r)]
  | .orR16Rm16 r _ => bothHalves r
  | .orAlImm8 _ => [(.ax, false)]
  | .orAxImm16 _ => bothHalves .ax
  | .orRm8Imm8 rm _ => rm8Halves rm
  | .orRm16Imm16 rm _ => rm16Halves rm
  | .orRm16Simm8 rm _ => rm16Halves rm
  | .andRm8R8 rm _ => rm8Halves rm
  | .andRm16R16 rm _ => rm16Halves rm
  | .andR8Rm8 r _ => [(wholeOf r, isHigh r)]
  | .andR16Rm16 r _ => bothHalves r
  | .andAlImm8 _ => [(.ax, false)]
  | .andAxImm16 _ => bothHalves .ax
  | .andRm8Imm8 rm _ => rm8Halves rm
  | .andRm16Imm16 rm _ => rm16Halves rm
  | .andRm16Simm8 rm _ => rm16Halves rm
  | .subRm8R8 rm _ => rm8Halves rm
  | .subRm16R16 rm _ => rm16Halves rm
  | .subR8Rm8 r _ => [(wholeOf r, isHigh r)]
  | .subR16Rm16 r _ => bothHalves r
  | .subAlImm8 _ => [(.ax, false)]
  | .subAxImm16 _ => bothHalves .ax
  | .subRm8Imm8 rm _ => rm8Halves rm
  | .subRm16Imm16 rm _ => rm16Halves rm
  | .subRm16Simm8 rm _ => rm16Halves rm
  | .xorRm8R8 rm _ => rm8Halves rm
  | .xorRm16R16 rm _ => rm16Halves rm
  | .xorR8Rm8 r _ => [(wholeOf r, isHigh r)]
  | .xorR16Rm16 r _ => bothHalves r
  | .xorAlImm8 _ => [(.ax, false)]
  | .xorAxImm16 _ => bothHalves .ax
  | .xorRm8Imm8 rm _ => rm8Halves rm
  | .xorRm16Imm16 rm _ => rm16Halves rm
  | .xorRm16Simm8 rm _ => rm16Halves rm
  | .cmpRm8R8 _ _ => []
  | .cmpRm16R16 _ _ => []
  | .cmpR8Rm8 _ _ => []
  | .cmpR16Rm16 _ _ => []
  | .cmpAlImm8 _ => []
  | .cmpAxImm16 _ => []
  | .cmpRm8Imm8 _ _ => []
  | .cmpRm16Imm16 _ _ => []
  | .cmpRm16Simm8 _ _ => []
  | .movRm8R8 rm _ => rm8Halves rm
  | .movRm16R16 rm _ => rm16Halves rm
  | .movR8Rm8 r _ => [(wholeOf r, isHigh r)]
  | .movR16Rm16 r _ => bothHalves r
  | .movAlMoffs _ => [(.ax, false)]
  | .movAxMoffs _ => bothHalves .ax
  | .movMoffsAl _ => []
  | .movMoffsAx _ => []
  | .movR8Imm8 r _ => [(wholeOf r, isHigh r)]
  | .movR16Imm16 r _ => bothHalves r
  | .movRm8Imm8 rm _ => rm8Halves rm
  | .movRm16Imm16 rm _ => rm16Halves rm
  | .pushR16 _ => bothHalves .sp
  | .pushRm16 _ => bothHalves .sp
  | .popR16 r => bothHalves .sp ++ bothHalves r
  | .popRm16 rm => bothHalves .sp ++ rm16Halves rm
  | .incR16 r => bothHalves r
  | .incRm8 rm => rm8Halves rm
  | .incRm16 rm => rm16Halves rm
  | .decR16 r => bothHalves r
  | .decRm8 rm => rm8Halves rm
  | .decRm16 rm => rm16Halves rm
  | .notRm8 rm => rm8Halves rm
  | .notRm16 rm => rm16Halves rm
  | .mulRm8 _ => bothHalves .ax
  | .mulRm16 _ => bothHalves .ax ++ bothHalves .dx
  | .divRm8 _ => bothHalves .ax
  | .divRm16 _ => bothHalves .ax ++ bothHalves .dx
  | .idivRm8 _ => bothHalves .ax
  | .idivRm16 _ => bothHalves .ax ++ bothHalves .dx
  | .jmpRel8 _ => []
  | .jmpRel16 _ => []
  | .jmpRm16 _ => []
  | .jo _ => []
  | .jno _ => []
  | .jb _ => []
  | .jnb _ => []
  | .je _ => []
  | .jne _ => []
  | .jbe _ => []
  | .jnbe _ => []
  | .js _ => []
  | .jns _ => []
  | .jp _ => []
  | .jnp _ => []
  | .jl _ => []
  | .jnl _ => []
  | .jle _ => []
  | .jnle _ => []
  | .callRel16 _ => bothHalves .sp
  | .callRm16 _ => bothHalves .sp
  | .ret => bothHalves .sp
  | .retImm16 _ => bothHalves .sp
  | .loop _ => bothHalves .cx
  | .hlt => []
  | .nop => []
  | .inAlImm8 => []
  | .inAxImm8 => []
  | .inAlDx => []
  | .inAxDx => []
  | .outImm8Al => []
  | .outImm8Ax => []
  | .outDxAl => []
  | .outDxAx => []
  | .lock => []
  | .wait => []

/-- The flags an instruction may write (the table of 10_state.md R29). -/
def instrFlags : Instr → List FlagName
  | .addRm8R8 _ _ => arithFlags
  | .addRm16R16 _ _ => arithFlags
  | .addR8Rm8 _ _ => arithFlags
  | .addR16Rm16 _ _ => arithFlags
  | .addAlImm8 _ => arithFlags
  | .addAxImm16 _ => arithFlags
  | .addRm8Imm8 _ _ => arithFlags
  | .addRm16Imm16 _ _ => arithFlags
  | .addRm16Simm8 _ _ => arithFlags
  | .orRm8R8 _ _ => logicFlags
  | .orRm16R16 _ _ => logicFlags
  | .orR8Rm8 _ _ => logicFlags
  | .orR16Rm16 _ _ => logicFlags
  | .orAlImm8 _ => logicFlags
  | .orAxImm16 _ => logicFlags
  | .orRm8Imm8 _ _ => logicFlags
  | .orRm16Imm16 _ _ => logicFlags
  | .orRm16Simm8 _ _ => logicFlags
  | .andRm8R8 _ _ => logicFlags
  | .andRm16R16 _ _ => logicFlags
  | .andR8Rm8 _ _ => logicFlags
  | .andR16Rm16 _ _ => logicFlags
  | .andAlImm8 _ => logicFlags
  | .andAxImm16 _ => logicFlags
  | .andRm8Imm8 _ _ => logicFlags
  | .andRm16Imm16 _ _ => logicFlags
  | .andRm16Simm8 _ _ => logicFlags
  | .subRm8R8 _ _ => arithFlags
  | .subRm16R16 _ _ => arithFlags
  | .subR8Rm8 _ _ => arithFlags
  | .subR16Rm16 _ _ => arithFlags
  | .subAlImm8 _ => arithFlags
  | .subAxImm16 _ => arithFlags
  | .subRm8Imm8 _ _ => arithFlags
  | .subRm16Imm16 _ _ => arithFlags
  | .subRm16Simm8 _ _ => arithFlags
  | .xorRm8R8 _ _ => logicFlags
  | .xorRm16R16 _ _ => logicFlags
  | .xorR8Rm8 _ _ => logicFlags
  | .xorR16Rm16 _ _ => logicFlags
  | .xorAlImm8 _ => logicFlags
  | .xorAxImm16 _ => logicFlags
  | .xorRm8Imm8 _ _ => logicFlags
  | .xorRm16Imm16 _ _ => logicFlags
  | .xorRm16Simm8 _ _ => logicFlags
  | .cmpRm8R8 _ _ => arithFlags
  | .cmpRm16R16 _ _ => arithFlags
  | .cmpR8Rm8 _ _ => arithFlags
  | .cmpR16Rm16 _ _ => arithFlags
  | .cmpAlImm8 _ => arithFlags
  | .cmpAxImm16 _ => arithFlags
  | .cmpRm8Imm8 _ _ => arithFlags
  | .cmpRm16Imm16 _ _ => arithFlags
  | .cmpRm16Simm8 _ _ => arithFlags
  | .movRm8R8 _ _ => []
  | .movRm16R16 _ _ => []
  | .movR8Rm8 _ _ => []
  | .movR16Rm16 _ _ => []
  | .movAlMoffs _ => []
  | .movAxMoffs _ => []
  | .movMoffsAl _ => []
  | .movMoffsAx _ => []
  | .movR8Imm8 _ _ => []
  | .movR16Imm16 _ _ => []
  | .movRm8Imm8 _ _ => []
  | .movRm16Imm16 _ _ => []
  | .pushR16 _ => []
  | .pushRm16 _ => []
  | .popR16 _ => []
  | .popRm16 _ => []
  | .incR16 _ => arithFlags
  | .incRm8 _ => arithFlags
  | .incRm16 _ => arithFlags
  | .decR16 _ => arithFlags
  | .decRm8 _ => arithFlags
  | .decRm16 _ => arithFlags
  | .notRm8 _ => logicFlags
  | .notRm16 _ => logicFlags
  | .mulRm8 _ => mulFlags
  | .mulRm16 _ => mulFlags
  | .divRm8 _ => []
  | .divRm16 _ => []
  | .idivRm8 _ => []
  | .idivRm16 _ => []
  | .jmpRel8 _ => []
  | .jmpRel16 _ => []
  | .jmpRm16 _ => []
  | .jo _ => []
  | .jno _ => []
  | .jb _ => []
  | .jnb _ => []
  | .je _ => []
  | .jne _ => []
  | .jbe _ => []
  | .jnbe _ => []
  | .js _ => []
  | .jns _ => []
  | .jp _ => []
  | .jnp _ => []
  | .jl _ => []
  | .jnl _ => []
  | .jle _ => []
  | .jnle _ => []
  | .callRel16 _ => []
  | .callRm16 _ => []
  | .ret => []
  | .retImm16 _ => []
  | .loop _ => []
  | .hlt => []
  | .nop => []
  | .inAlImm8 => []
  | .inAxImm8 => []
  | .inAlDx => []
  | .inAxDx => []
  | .outImm8Al => []
  | .outImm8Ax => []
  | .outDxAl => []
  | .outDxAx => []
  | .lock => []
  | .wait => []

/-- The addresses of the bytes an instruction stores to when it runs on `s`: the destination operand, or the new top of
the stack (20_memory.md R51). -/
def instrCells (s : State) : Instr → List Nat
  | .addRm8R8 rm _ => rm8Cells s rm
  | .addRm16R16 rm _ => rm16Cells s rm
  | .addR8Rm8 _ _ => []
  | .addR16Rm16 _ _ => []
  | .addAlImm8 _ => []
  | .addAxImm16 _ => []
  | .addRm8Imm8 rm _ => rm8Cells s rm
  | .addRm16Imm16 rm _ => rm16Cells s rm
  | .addRm16Simm8 rm _ => rm16Cells s rm
  | .orRm8R8 rm _ => rm8Cells s rm
  | .orRm16R16 rm _ => rm16Cells s rm
  | .orR8Rm8 _ _ => []
  | .orR16Rm16 _ _ => []
  | .orAlImm8 _ => []
  | .orAxImm16 _ => []
  | .orRm8Imm8 rm _ => rm8Cells s rm
  | .orRm16Imm16 rm _ => rm16Cells s rm
  | .orRm16Simm8 rm _ => rm16Cells s rm
  | .andRm8R8 rm _ => rm8Cells s rm
  | .andRm16R16 rm _ => rm16Cells s rm
  | .andR8Rm8 _ _ => []
  | .andR16Rm16 _ _ => []
  | .andAlImm8 _ => []
  | .andAxImm16 _ => []
  | .andRm8Imm8 rm _ => rm8Cells s rm
  | .andRm16Imm16 rm _ => rm16Cells s rm
  | .andRm16Simm8 rm _ => rm16Cells s rm
  | .subRm8R8 rm _ => rm8Cells s rm
  | .subRm16R16 rm _ => rm16Cells s rm
  | .subR8Rm8 _ _ => []
  | .subR16Rm16 _ _ => []
  | .subAlImm8 _ => []
  | .subAxImm16 _ => []
  | .subRm8Imm8 rm _ => rm8Cells s rm
  | .subRm16Imm16 rm _ => rm16Cells s rm
  | .subRm16Simm8 rm _ => rm16Cells s rm
  | .xorRm8R8 rm _ => rm8Cells s rm
  | .xorRm16R16 rm _ => rm16Cells s rm
  | .xorR8Rm8 _ _ => []
  | .xorR16Rm16 _ _ => []
  | .xorAlImm8 _ => []
  | .xorAxImm16 _ => []
  | .xorRm8Imm8 rm _ => rm8Cells s rm
  | .xorRm16Imm16 rm _ => rm16Cells s rm
  | .xorRm16Simm8 rm _ => rm16Cells s rm
  | .cmpRm8R8 _ _ => []
  | .cmpRm16R16 _ _ => []
  | .cmpR8Rm8 _ _ => []
  | .cmpR16Rm16 _ _ => []
  | .cmpAlImm8 _ => []
  | .cmpAxImm16 _ => []
  | .cmpRm8Imm8 _ _ => []
  | .cmpRm16Imm16 _ _ => []
  | .cmpRm16Simm8 _ _ => []
  | .movRm8R8 rm _ => rm8Cells s rm
  | .movRm16R16 rm _ => rm16Cells s rm
  | .movR8Rm8 _ _ => []
  | .movR16Rm16 _ _ => []
  | .movAlMoffs _ => []
  | .movAxMoffs _ => []
  | .movMoffsAl a => [a.toNat]
  | .movMoffsAx a => wordAt a
  | .movR8Imm8 _ _ => []
  | .movR16Imm16 _ _ => []
  | .movRm8Imm8 rm _ => rm8Cells s rm
  | .movRm16Imm16 rm _ => rm16Cells s rm
  | .pushR16 _ => wordAt s.loweredSp
  | .pushRm16 _ => wordAt s.loweredSp
  | .popR16 _ => []
  | .popRm16 rm => rm16Cells s rm
  | .incR16 _ => []
  | .incRm8 rm => rm8Cells s rm
  | .incRm16 rm => rm16Cells s rm
  | .decR16 _ => []
  | .decRm8 rm => rm8Cells s rm
  | .decRm16 rm => rm16Cells s rm
  | .notRm8 rm => rm8Cells s rm
  | .notRm16 rm => rm16Cells s rm
  | .mulRm8 _ => []
  | .mulRm16 _ => []
  | .divRm8 _ => []
  | .divRm16 _ => []
  | .idivRm8 _ => []
  | .idivRm16 _ => []
  | .jmpRel8 _ => []
  | .jmpRel16 _ => []
  | .jmpRm16 _ => []
  | .jo _ => []
  | .jno _ => []
  | .jb _ => []
  | .jnb _ => []
  | .je _ => []
  | .jne _ => []
  | .jbe _ => []
  | .jnbe _ => []
  | .js _ => []
  | .jns _ => []
  | .jp _ => []
  | .jnp _ => []
  | .jl _ => []
  | .jnl _ => []
  | .jle _ => []
  | .jnle _ => []
  | .callRel16 _ => wordAt s.loweredSp
  | .callRm16 _ => wordAt s.loweredSp
  | .ret => []
  | .retImm16 _ => []
  | .loop _ => []
  | .hlt => []
  | .nop => []
  | .inAlImm8 => []
  | .inAxImm8 => []
  | .inAlDx => []
  | .inAxDx => []
  | .outImm8Al => []
  | .outImm8Ax => []
  | .outDxAl => []
  | .outDxAx => []
  | .lock => []
  | .wait => []

/-! ## Accesses and stores -/

/-- A data access: its address and its width in bytes (20_memory.md R57). -/
abbrev Access := Word × Nat

/-- Some byte of the access lies outside memory (20_memory.md R55): the last one does. -/
def Access.outside (s : State) (p : Access) : Bool := decide (s.memSize < p.1.toNat + p.2)

/-- The access of an r/m8 operand. -/
def rm8Access (s : State) : RM8 → List Access
  | .reg _ => []
  | .mem m => [(effAddr s.regs m, 1)]

/-- The access of an r/m16 operand. -/
def rm16Access (s : State) : RM16 → List Access
  | .reg _ => []
  | .mem m => [(effAddr s.regs m, 2)]

/-- The data accesses of an instruction that runs on `s`, in the order of its pseudocode, each address once (the table of
20_memory.md R51; R68): its memory operand, and the stack slot at SP or at the lowered SP. -/
def instrAccesses (s : State) : Instr → List Access
  | .addRm8R8 rm _ => rm8Access s rm
  | .addRm16R16 rm _ => rm16Access s rm
  | .addR8Rm8 _ rm => rm8Access s rm
  | .addR16Rm16 _ rm => rm16Access s rm
  | .addAlImm8 _ => []
  | .addAxImm16 _ => []
  | .addRm8Imm8 rm _ => rm8Access s rm
  | .addRm16Imm16 rm _ => rm16Access s rm
  | .addRm16Simm8 rm _ => rm16Access s rm
  | .orRm8R8 rm _ => rm8Access s rm
  | .orRm16R16 rm _ => rm16Access s rm
  | .orR8Rm8 _ rm => rm8Access s rm
  | .orR16Rm16 _ rm => rm16Access s rm
  | .orAlImm8 _ => []
  | .orAxImm16 _ => []
  | .orRm8Imm8 rm _ => rm8Access s rm
  | .orRm16Imm16 rm _ => rm16Access s rm
  | .orRm16Simm8 rm _ => rm16Access s rm
  | .andRm8R8 rm _ => rm8Access s rm
  | .andRm16R16 rm _ => rm16Access s rm
  | .andR8Rm8 _ rm => rm8Access s rm
  | .andR16Rm16 _ rm => rm16Access s rm
  | .andAlImm8 _ => []
  | .andAxImm16 _ => []
  | .andRm8Imm8 rm _ => rm8Access s rm
  | .andRm16Imm16 rm _ => rm16Access s rm
  | .andRm16Simm8 rm _ => rm16Access s rm
  | .subRm8R8 rm _ => rm8Access s rm
  | .subRm16R16 rm _ => rm16Access s rm
  | .subR8Rm8 _ rm => rm8Access s rm
  | .subR16Rm16 _ rm => rm16Access s rm
  | .subAlImm8 _ => []
  | .subAxImm16 _ => []
  | .subRm8Imm8 rm _ => rm8Access s rm
  | .subRm16Imm16 rm _ => rm16Access s rm
  | .subRm16Simm8 rm _ => rm16Access s rm
  | .xorRm8R8 rm _ => rm8Access s rm
  | .xorRm16R16 rm _ => rm16Access s rm
  | .xorR8Rm8 _ rm => rm8Access s rm
  | .xorR16Rm16 _ rm => rm16Access s rm
  | .xorAlImm8 _ => []
  | .xorAxImm16 _ => []
  | .xorRm8Imm8 rm _ => rm8Access s rm
  | .xorRm16Imm16 rm _ => rm16Access s rm
  | .xorRm16Simm8 rm _ => rm16Access s rm
  | .cmpRm8R8 rm _ => rm8Access s rm
  | .cmpRm16R16 rm _ => rm16Access s rm
  | .cmpR8Rm8 _ rm => rm8Access s rm
  | .cmpR16Rm16 _ rm => rm16Access s rm
  | .cmpAlImm8 _ => []
  | .cmpAxImm16 _ => []
  | .cmpRm8Imm8 rm _ => rm8Access s rm
  | .cmpRm16Imm16 rm _ => rm16Access s rm
  | .cmpRm16Simm8 rm _ => rm16Access s rm
  | .movRm8R8 rm _ => rm8Access s rm
  | .movRm16R16 rm _ => rm16Access s rm
  | .movR8Rm8 _ rm => rm8Access s rm
  | .movR16Rm16 _ rm => rm16Access s rm
  | .movAlMoffs a => [(a, 1)]
  | .movAxMoffs a => [(a, 2)]
  | .movMoffsAl a => [(a, 1)]
  | .movMoffsAx a => [(a, 2)]
  | .movR8Imm8 _ _ => []
  | .movR16Imm16 _ _ => []
  | .movRm8Imm8 rm _ => rm8Access s rm
  | .movRm16Imm16 rm _ => rm16Access s rm
  | .pushR16 _ => [(s.loweredSp, 2)]
  | .pushRm16 rm => rm16Access s rm ++ [(s.loweredSp, 2)]
  | .popR16 _ => [(s.regs.sp, 2)]
  | .popRm16 rm => (s.regs.sp, 2) :: rm16Access s rm
  | .incR16 _ => []
  | .incRm8 rm => rm8Access s rm
  | .incRm16 rm => rm16Access s rm
  | .decR16 _ => []
  | .decRm8 rm => rm8Access s rm
  | .decRm16 rm => rm16Access s rm
  | .notRm8 rm => rm8Access s rm
  | .notRm16 rm => rm16Access s rm
  | .mulRm8 rm => rm8Access s rm
  | .mulRm16 rm => rm16Access s rm
  | .divRm8 rm => rm8Access s rm
  | .divRm16 rm => rm16Access s rm
  | .idivRm8 rm => rm8Access s rm
  | .idivRm16 rm => rm16Access s rm
  | .jmpRel8 _ => []
  | .jmpRel16 _ => []
  | .jmpRm16 rm => rm16Access s rm
  | .jo _ => []
  | .jno _ => []
  | .jb _ => []
  | .jnb _ => []
  | .je _ => []
  | .jne _ => []
  | .jbe _ => []
  | .jnbe _ => []
  | .js _ => []
  | .jns _ => []
  | .jp _ => []
  | .jnp _ => []
  | .jl _ => []
  | .jnl _ => []
  | .jle _ => []
  | .jnle _ => []
  | .callRel16 _ => [(s.loweredSp, 2)]
  | .callRm16 rm => rm16Access s rm ++ [(s.loweredSp, 2)]
  | .ret => [(s.regs.sp, 2)]
  | .retImm16 _ => [(s.regs.sp, 2)]
  | .loop _ => []
  | .hlt => []
  | .nop => []
  | .inAlImm8 => []
  | .inAxImm8 => []
  | .inAlDx => []
  | .inAxDx => []
  | .outImm8Al => []
  | .outImm8Ax => []
  | .outDxAl => []
  | .outDxAx => []
  | .lock => []
  | .wait => []

/-- The address of the first access of a list that is out of range. -/
def firstOutsideOf (s : State) (l : List Access) : Option Word :=
  match l.find? (Access.outside s) with
  | some p => some p.1
  | none => none

/-- The address of an instruction's first access that is out of range: the MemoryFault it raises on `s`, if it raises one
(60_exceptions.md R252, R259). -/
def firstOutside (s : State) (i : Instr) : Option Word := firstOutsideOf s (instrAccesses s i)

/-- The bytes of a word at an address, low byte first (20_memory.md R52). -/
def wordStore (a : Word) (v : Word) : List (Nat × Byte) := [(a.toNat, lowByte v), (a.toNat + 1, highByte v)]

/-- The byte an r/m8 destination stores. -/
def rm8Store (s : State) (rm : RM8) (v : Byte) : List (Nat × Byte) :=
  match rm with
  | .reg _ => []
  | .mem m => [((effAddr s.regs m).toNat, v)]

/-- The bytes an r/m16 destination stores. -/
def rm16Store (s : State) (rm : RM16) (v : Word) : List (Nat × Byte) :=
  match rm with
  | .reg _ => []
  | .mem m => wordStore (effAddr s.regs m) v

/-- The bytes an instruction stores when it completes on `s`, each with its address: `instrCells` with the values, from each
instruction's own rule (R131 to R133, R154 to R158, R181 to R184, R208). -/
def instrStores (s : State) : Instr → List (Nat × Byte)
  | .addRm8R8 rm r => rm8Store s rm (value8 s rm + s.regs.get8 r)
  | .addRm16R16 rm r => rm16Store s rm (value16 s rm + s.regs.get r)
  | .addR8Rm8 _ _ => []
  | .addR16Rm16 _ _ => []
  | .addAlImm8 _ => []
  | .addAxImm16 _ => []
  | .addRm8Imm8 rm v => rm8Store s rm (value8 s rm + v)
  | .addRm16Imm16 rm v => rm16Store s rm (value16 s rm + v)
  | .addRm16Simm8 rm v => rm16Store s rm (value16 s rm + sext16 v)
  | .orRm8R8 rm r => rm8Store s rm (value8 s rm ||| s.regs.get8 r)
  | .orRm16R16 rm r => rm16Store s rm (value16 s rm ||| s.regs.get r)
  | .orR8Rm8 _ _ => []
  | .orR16Rm16 _ _ => []
  | .orAlImm8 _ => []
  | .orAxImm16 _ => []
  | .orRm8Imm8 rm v => rm8Store s rm (value8 s rm ||| v)
  | .orRm16Imm16 rm v => rm16Store s rm (value16 s rm ||| v)
  | .orRm16Simm8 rm v => rm16Store s rm (value16 s rm ||| sext16 v)
  | .andRm8R8 rm r => rm8Store s rm (value8 s rm &&& s.regs.get8 r)
  | .andRm16R16 rm r => rm16Store s rm (value16 s rm &&& s.regs.get r)
  | .andR8Rm8 _ _ => []
  | .andR16Rm16 _ _ => []
  | .andAlImm8 _ => []
  | .andAxImm16 _ => []
  | .andRm8Imm8 rm v => rm8Store s rm (value8 s rm &&& v)
  | .andRm16Imm16 rm v => rm16Store s rm (value16 s rm &&& v)
  | .andRm16Simm8 rm v => rm16Store s rm (value16 s rm &&& sext16 v)
  | .subRm8R8 rm r => rm8Store s rm (value8 s rm - s.regs.get8 r)
  | .subRm16R16 rm r => rm16Store s rm (value16 s rm - s.regs.get r)
  | .subR8Rm8 _ _ => []
  | .subR16Rm16 _ _ => []
  | .subAlImm8 _ => []
  | .subAxImm16 _ => []
  | .subRm8Imm8 rm v => rm8Store s rm (value8 s rm - v)
  | .subRm16Imm16 rm v => rm16Store s rm (value16 s rm - v)
  | .subRm16Simm8 rm v => rm16Store s rm (value16 s rm - sext16 v)
  | .xorRm8R8 rm r => rm8Store s rm (value8 s rm ^^^ s.regs.get8 r)
  | .xorRm16R16 rm r => rm16Store s rm (value16 s rm ^^^ s.regs.get r)
  | .xorR8Rm8 _ _ => []
  | .xorR16Rm16 _ _ => []
  | .xorAlImm8 _ => []
  | .xorAxImm16 _ => []
  | .xorRm8Imm8 rm v => rm8Store s rm (value8 s rm ^^^ v)
  | .xorRm16Imm16 rm v => rm16Store s rm (value16 s rm ^^^ v)
  | .xorRm16Simm8 rm v => rm16Store s rm (value16 s rm ^^^ sext16 v)
  | .cmpRm8R8 _ _ => []
  | .cmpRm16R16 _ _ => []
  | .cmpR8Rm8 _ _ => []
  | .cmpR16Rm16 _ _ => []
  | .cmpAlImm8 _ => []
  | .cmpAxImm16 _ => []
  | .cmpRm8Imm8 _ _ => []
  | .cmpRm16Imm16 _ _ => []
  | .cmpRm16Simm8 _ _ => []
  | .movRm8R8 rm r => rm8Store s rm (s.regs.get8 r)
  | .movRm16R16 rm r => rm16Store s rm (s.regs.get r)
  | .movR8Rm8 _ _ => []
  | .movR16Rm16 _ _ => []
  | .movAlMoffs _ => []
  | .movAxMoffs _ => []
  | .movMoffsAl a => [(a.toNat, lowByte s.regs.ax)]
  | .movMoffsAx a => wordStore a s.regs.ax
  | .movR8Imm8 _ _ => []
  | .movR16Imm16 _ _ => []
  | .movRm8Imm8 rm v => rm8Store s rm v
  | .movRm16Imm16 rm v => rm16Store s rm v
  | .pushR16 r => wordStore s.loweredSp (if r = .sp then s.loweredSp else s.regs.get r)
  | .pushRm16 rm => wordStore s.loweredSp (if rm = .reg .sp then s.loweredSp else value16 s rm)
  | .popR16 _ => []
  | .popRm16 rm => rm16Store s rm (s.mem.readWord s.regs.sp.toNat)
  | .incR16 _ => []
  | .incRm8 rm => rm8Store s rm (value8 s rm + 1)
  | .incRm16 rm => rm16Store s rm (value16 s rm + 1)
  | .decR16 _ => []
  | .decRm8 rm => rm8Store s rm (value8 s rm - 1)
  | .decRm16 rm => rm16Store s rm (value16 s rm - 1)
  | .notRm8 rm => rm8Store s rm (~~~(value8 s rm))
  | .notRm16 rm => rm16Store s rm (~~~(value16 s rm))
  | .mulRm8 _ => []
  | .mulRm16 _ => []
  | .divRm8 _ => []
  | .divRm16 _ => []
  | .idivRm8 _ => []
  | .idivRm16 _ => []
  | .jmpRel8 _ => []
  | .jmpRel16 _ => []
  | .jmpRm16 _ => []
  | .jo _ => []
  | .jno _ => []
  | .jb _ => []
  | .jnb _ => []
  | .je _ => []
  | .jne _ => []
  | .jbe _ => []
  | .jnbe _ => []
  | .js _ => []
  | .jns _ => []
  | .jp _ => []
  | .jnp _ => []
  | .jl _ => []
  | .jnl _ => []
  | .jle _ => []
  | .jnle _ => []
  | .callRel16 _ => wordStore s.loweredSp (s.pc + 3)
  | .callRm16 rm => wordStore s.loweredSp (s.pc + BitVec.ofNat 16 (2 + rm.dispBytes))
  | .ret => []
  | .retImm16 _ => []
  | .loop _ => []
  | .hlt => []
  | .nop => []
  | .inAlImm8 => []
  | .inAxImm8 => []
  | .inAlDx => []
  | .inAxDx => []
  | .outImm8Al => []
  | .outImm8Ax => []
  | .outDxAl => []
  | .outDxAx => []
  | .lock => []
  | .wait => []

end Sys2Proof.Machine
end

