-- ==== Sys2Proof/Machine/Load.lean ====
section
/-! DEFINITION. Load, the only reset the core has (70_reset_and_hazards.md R290 to R295). -/

namespace Sys2Proof.Machine

/-- The error results of load (60_exceptions.md R250, R256). -/
inductive LoadError where
  /-- IMAGE_BASE + IMAGE_LEN > MEM_SIZE (R291). -/
  | imageTooLarge
  deriving DecidableEq, Repr

/-- The class of a load error (60_exceptions.md R250). -/
def LoadError.classOf : LoadError → FaultClass
  | .imageTooLarge => .loadError

/-- `load(IMAGE, IMAGE_BASE)` of a machine with the given last address, SP_INIT and MAX_STEPS (R290), or ImageTooLarge,
the sum taken as a natural number (R291). It does not look at any earlier session (R295).
The spec's load has no MAX_STEPS, which is the argument of `run` (00_scope.md R8); DESIGN CHOICE (log 20): a session holds the
budget its next steps are counted against from its load on, and `run` replaces it. -/
def load (memTop spInit : Word) (maxSteps : Nat) (image : List Byte) (base : Word) : Except LoadError State :=
  if memTop.toNat + 1 < base.toNat + image.length then .error .imageTooLarge
  else .ok {
    regs   := Regs.atLoad spInit
    pc     := base
    flags  := Flags.atLoad
    mem    := Memory.writeBytes [] base.toNat image
    status := .running
    steps  := 0
    params := { memTop, imageBase := base, imageLen := image.length, spInit, maxSteps } }

/-- A second load on a session: a full reset with the session's own MEM_SIZE and SP_INIT (R295, the spec's decision D28).
DESIGN CHOICE (log 20): the reloaded session keeps the MAX_STEPS that it had, which an earlier `run` may have set, until the
next `run`. -/
def State.reload (s : State) (image : List Byte) (base : Word) : Except LoadError State :=
  load s.params.memTop s.params.spInit s.params.maxSteps image base

end Sys2Proof.Machine
end

