-- ==== Sys2Proof/Machine/Run.lean ====
section
/-! DEFINITION. Run control (70_reset_and_hazards.md R296, R298, R299, R300) and the snapshot (10_state.md R44). -/

namespace Sys2Proof.Machine

/-- What the environment sees of a session: the status, the eight registers and the nine flags (10_state.md R44). It has
no pc, no STEPS and no memory (log 16). R44 adds a "diagnostic" for a Faulted session, a string for a human whose content is
not specified (60_exceptions.md R262); DESIGN CHOICE (log 19): the model returns the fault reason with what it records, in
`status`, and no diagnostic beside it. -/
structure Snapshot where
  status : Status
  regs   : Regs
  flags  : Flags
  deriving DecidableEq, Repr

/-- The snapshot of a session. -/
def State.snapshot (s : State) : Snapshot where
  status := s.status
  regs := s.regs
  flags := s.flags

/-- At most `n` passes of the loop of R298, stopping when Status is not Running. -/
def passes : Nat → State → Host.Outcome State Fault Refusal
  | 0, s => .next s
  | n + 1, s =>
    match s.status with
    | .halted _ => .next s
    | .faulted _ => .next s
    | .running =>
      match step s with
      | .next t => passes n t
      | .fault f => .fault f
      | .refused r => .refused r

/-- The session when `run(max_steps)` returns (R296): the loop needs one pass for each step of the budget that is left,
and one more for the check that ends it (log 17). A second run on a session still Running has no meaning in the spec (R296);
DESIGN CHOICE (log 18): it goes on from the STEPS already begun, and where these exceed `maxSteps` it makes one pass, after
which the session may still be Running. -/
def run (maxSteps : Nat) (s : State) : Host.Outcome State Fault Refusal :=
  passes (maxSteps - s.steps + 1) { s with params := { s.params with maxSteps } }

end Sys2Proof.Machine
end

