-- ==== Sys2Proof/WellFormed.lean ====
section
/-! DEFINITION. Which terms of `Instr` are instructions of the hardware. Everything but one thing holds by the types. -/

namespace Sys2Proof

/-- 30_encoding.md R88: mod = 0 with rm = 6 is the direct address, so a base of BP alone has no encoding without a
displacement ("`[BP]` with no displacement can only be encoded as mod = 1, rm = 6, d8 = 0"). -/
def MemOp.wf : MemOp → Bool
  | .noDisp .bp => false
  | .noDisp _ => true
  | .disp8 _ _ => true
  | .disp16 _ _ => true
  | .direct _ => true

/-- An r/m8 operand is well formed when its memory recipe is. -/
def RM8.wf : RM8 → Bool
  | .reg _ => true
  | .mem m => m.wf

/-- An r/m16 operand is well formed when its memory recipe is. -/
def RM16.wf : RM16 → Bool
  | .reg _ => true
  | .mem m => m.wf

/-- An instruction is well formed when its r/m operand, if it has one, is. -/
def Instr.wf : Instr → Bool
  | .addRm8R8 rm _ => rm.wf
  | .addRm16R16 rm _ => rm.wf
  | .addR8Rm8 _ rm => rm.wf
  | .addR16Rm16 _ rm => rm.wf
  | .addAlImm8 _ => true
  | .addAxImm16 _ => true
  | .addRm8Imm8 rm _ => rm.wf
  | .addRm16Imm16 rm _ => rm.wf
  | .addRm16Simm8 rm _ => rm.wf
  | .orRm8R8 rm _ => rm.wf
  | .orRm16R16 rm _ => rm.wf
  | .orR8Rm8 _ rm => rm.wf
  | .orR16Rm16 _ rm => rm.wf
  | .orAlImm8 _ => true
  | .orAxImm16 _ => true
  | .orRm8Imm8 rm _ => rm.wf
  | .orRm16Imm16 rm _ => rm.wf
  | .orRm16Simm8 rm _ => rm.wf
  | .andRm8R8 rm _ => rm.wf
  | .andRm16R16 rm _ => rm.wf
  | .andR8Rm8 _ rm => rm.wf
  | .andR16Rm16 _ rm => rm.wf
  | .andAlImm8 _ => true
  | .andAxImm16 _ => true
  | .andRm8Imm8 rm _ => rm.wf
  | .andRm16Imm16 rm _ => rm.wf
  | .andRm16Simm8 rm _ => rm.wf
  | .subRm8R8 rm _ => rm.wf
  | .subRm16R16 rm _ => rm.wf
  | .subR8Rm8 _ rm => rm.wf
  | .subR16Rm16 _ rm => rm.wf
  | .subAlImm8 _ => true
  | .subAxImm16 _ => true
  | .subRm8Imm8 rm _ => rm.wf
  | .subRm16Imm16 rm _ => rm.wf
  | .subRm16Simm8 rm _ => rm.wf
  | .xorRm8R8 rm _ => rm.wf
  | .xorRm16R16 rm _ => rm.wf
  | .xorR8Rm8 _ rm => rm.wf
  | .xorR16Rm16 _ rm => rm.wf
  | .xorAlImm8 _ => true
  | .xorAxImm16 _ => true
  | .xorRm8Imm8 rm _ => rm.wf
  | .xorRm16Imm16 rm _ => rm.wf
  | .xorRm16Simm8 rm _ => rm.wf
  | .cmpRm8R8 rm _ => rm.wf
  | .cmpRm16R16 rm _ => rm.wf
  | .cmpR8Rm8 _ rm => rm.wf
  | .cmpR16Rm16 _ rm => rm.wf
  | .cmpAlImm8 _ => true
  | .cmpAxImm16 _ => true
  | .cmpRm8Imm8 rm _ => rm.wf
  | .cmpRm16Imm16 rm _ => rm.wf
  | .cmpRm16Simm8 rm _ => rm.wf
  | .movRm8R8 rm _ => rm.wf
  | .movRm16R16 rm _ => rm.wf
  | .movR8Rm8 _ rm => rm.wf
  | .movR16Rm16 _ rm => rm.wf
  | .movAlMoffs _ => true
  | .movAxMoffs _ => true
  | .movMoffsAl _ => true
  | .movMoffsAx _ => true
  | .movR8Imm8 _ _ => true
  | .movR16Imm16 _ _ => true
  | .movRm8Imm8 rm _ => rm.wf
  | .movRm16Imm16 rm _ => rm.wf
  | .pushR16 _ => true
  | .pushRm16 rm => rm.wf
  | .popR16 _ => true
  | .popRm16 rm => rm.wf
  | .incR16 _ => true
  | .incRm8 rm => rm.wf
  | .incRm16 rm => rm.wf
  | .decR16 _ => true
  | .decRm8 rm => rm.wf
  | .decRm16 rm => rm.wf
  | .notRm8 rm => rm.wf
  | .notRm16 rm => rm.wf
  | .mulRm8 rm => rm.wf
  | .mulRm16 rm => rm.wf
  | .divRm8 rm => rm.wf
  | .divRm16 rm => rm.wf
  | .idivRm8 rm => rm.wf
  | .idivRm16 rm => rm.wf
  | .jmpRel8 _ => true
  | .jmpRel16 _ => true
  | .jmpRm16 rm => rm.wf
  | .jo _ => true
  | .jno _ => true
  | .jb _ => true
  | .jnb _ => true
  | .je _ => true
  | .jne _ => true
  | .jbe _ => true
  | .jnbe _ => true
  | .js _ => true
  | .jns _ => true
  | .jp _ => true
  | .jnp _ => true
  | .jl _ => true
  | .jnl _ => true
  | .jle _ => true
  | .jnle _ => true
  | .callRel16 _ => true
  | .callRm16 rm => rm.wf
  | .ret => true
  | .retImm16 _ => true
  | .loop _ => true
  | .hlt => true
  | .nop => true
  | .inAlImm8 => true
  | .inAxImm8 => true
  | .inAlDx => true
  | .inAxDx => true
  | .outImm8Al => true
  | .outImm8Ax => true
  | .outDxAl => true
  | .outDxAx => true
  | .lock => true
  | .wait => true

end Sys2Proof
end

