-- ==== Sys2Proof/Safety.lean ====
section
/-! DEFINITION. What counts as a safe run, the invariant of a session, and the phrases the claims are written in. -/

namespace Sys2Proof.Machine

/-! ## Safe runs -/

/-- Halted or Faulted (10_state.md R38). -/
def Status.terminal : Status → Bool
  | .running => false
  | .halted _ => true
  | .faulted _ => true

/-- "No fault of any kind" (60_exceptions.md R250): the session is not Faulted. -/
def NotFaulted (s : State) : Prop := ∀ f, s.status ≠ .faulted f

/-- Normal termination (70_reset_and_hazards.md R299): the run ends Halted. -/
def EndsNormally (r : Host.Outcome State Fault Refusal) : Prop := ∃ t h, r = .next t ∧ t.status = .halted h

/-- The run of a session is safe for `n` passes of the loop: every state on the way is not Faulted. -/
def SafeFor : Nat → State → Prop
  | 0, s => NotFaulted s
  | n + 1, s => NotFaulted s ∧ ∃ t, step s = .next t ∧ SafeFor n t

/-! ## The invariant of a session -/

/-- What every state of a loaded session meets: memory in canonical form and inside MEM_SIZE (20_memory.md R50, "no
implicit growth"), the image inside memory (00_scope.md R8), and no more steps begun than the budget allows
(70_reset_and_hazards.md R298). -/
structure Inv (s : State) : Prop where
  canonical : s.mem.wf
  inside    : ∀ c ∈ s.mem, c.1 < s.memSize
  image     : s.imageEnd ≤ s.memSize
  budget    : s.steps ≤ s.params.maxSteps

/-! ## Phrases of the claims

`ByteOp i dst src op fl` says of one instruction, for every state: with its operands in range it completes with
`op dst src` written to dst, the flags `fl` gives, and pc moved past it, nothing else; with its memory operand out of range
it faults at that address and nothing else changes. `WordOp` says the same of a word instruction. -/

/-- A byte instruction that computes and writes (41_arithmetic.md R153). -/
def ByteOp (i : Instr) (dst : RM8) (src : Src8) (op : Byte → Byte → Byte) (fl : Flags → Byte → Byte → Flags) : Prop :=
  ∀ s : State,
    (inRange8 s dst → srcInRange8 s src →
      exec i s = .next (((put8 s dst (op (value8 s dst) (srcValue8 s src))).setFlags
        (fl s.flags (value8 s dst) (srcValue8 s src))).advance i.len)) ∧
    (∀ m, (dst = .mem m ∨ src = .rm (.mem m)) → s.memSize ≤ (effAddr s.regs m).toNat →
      exec i s = .next { s with status := .faulted (.memoryFault (effAddr s.regs m)) })

/-- A word instruction that computes and writes (41_arithmetic.md R153). -/
def WordOp (i : Instr) (dst : RM16) (src : Src16) (op : Word → Word → Word) (fl : Flags → Word → Word → Flags) : Prop :=
  ∀ s : State,
    (inRange16 s dst → srcInRange16 s src →
      exec i s = .next (((put16 s dst (op (value16 s dst) (srcValue16 s src))).setFlags
        (fl s.flags (value16 s dst) (srcValue16 s src))).advance i.len)) ∧
    (∀ m, (dst = .mem m ∨ src = .rm (.mem m)) → s.memSize ≤ (effAddr s.regs m).toNat + 1 →
      exec i s = .next { s with status := .faulted (.memoryFault (effAddr s.regs m)) })

/-- A byte instruction that computes flags and writes no operand (41_arithmetic.md R156). -/
def ByteTest (i : Instr) (dst : RM8) (src : Src8) (fl : Flags → Byte → Byte → Flags) : Prop :=
  ∀ s : State,
    (inRange8 s dst → srcInRange8 s src →
      exec i s = .next ((s.setFlags (fl s.flags (value8 s dst) (srcValue8 s src))).advance i.len)) ∧
    (∀ m, (dst = .mem m ∨ src = .rm (.mem m)) → s.memSize ≤ (effAddr s.regs m).toNat →
      exec i s = .next { s with status := .faulted (.memoryFault (effAddr s.regs m)) })

/-- A word instruction that computes flags and writes no operand (41_arithmetic.md R156). -/
def WordTest (i : Instr) (dst : RM16) (src : Src16) (fl : Flags → Word → Word → Flags) : Prop :=
  ∀ s : State,
    (inRange16 s dst → srcInRange16 s src →
      exec i s = .next ((s.setFlags (fl s.flags (value16 s dst) (srcValue16 s src))).advance i.len)) ∧
    (∀ m, (dst = .mem m ∨ src = .rm (.mem m)) → s.memSize ≤ (effAddr s.regs m).toNat + 1 →
      exec i s = .next { s with status := .faulted (.memoryFault (effAddr s.regs m)) })

/-- A byte move: src copied to dst (40_data_movement.md R131). -/
def ByteMove (i : Instr) (dst : RM8) (src : Src8) : Prop :=
  ∀ s : State,
    (inRange8 s dst → srcInRange8 s src → exec i s = .next ((put8 s dst (srcValue8 s src)).advance i.len)) ∧
    (∀ m, (dst = .mem m ∨ src = .rm (.mem m)) → s.memSize ≤ (effAddr s.regs m).toNat →
      exec i s = .next { s with status := .faulted (.memoryFault (effAddr s.regs m)) })

/-- A word move: src copied to dst (40_data_movement.md R131). -/
def WordMove (i : Instr) (dst : RM16) (src : Src16) : Prop :=
  ∀ s : State,
    (inRange16 s dst → srcInRange16 s src → exec i s = .next ((put16 s dst (srcValue16 s src)).advance i.len)) ∧
    (∀ m, (dst = .mem m ∨ src = .rm (.mem m)) → s.memSize ≤ (effAddr s.regs m).toNat + 1 →
      exec i s = .next { s with status := .faulted (.memoryFault (effAddr s.regs m)) })

/-- A byte instruction with one operand that it reads, computes on and writes (41_arithmetic.md R157, R158; 42_logic.md
R184). -/
def ByteUnary (i : Instr) (dst : RM8) (op : Byte → Byte) (fl : Flags → Byte → Flags) : Prop :=
  ∀ s : State,
    (inRange8 s dst → exec i s = .next (((put8 s dst (op (value8 s dst))).setFlags
      (fl s.flags (value8 s dst))).advance i.len)) ∧
    (∀ m, dst = .mem m → s.memSize ≤ (effAddr s.regs m).toNat →
      exec i s = .next { s with status := .faulted (.memoryFault (effAddr s.regs m)) })

/-- A word instruction with one operand that it reads, computes on and writes (41_arithmetic.md R157, R158; 42_logic.md
R184). -/
def WordUnary (i : Instr) (dst : RM16) (op : Word → Word) (fl : Flags → Word → Flags) : Prop :=
  ∀ s : State,
    (inRange16 s dst → exec i s = .next (((put16 s dst (op (value16 s dst))).setFlags
      (fl s.flags (value16 s dst))).advance i.len)) ∧
    (∀ m, dst = .mem m → s.memSize ≤ (effAddr s.regs m).toNat + 1 →
      exec i s = .next { s with status := .faulted (.memoryFault (effAddr s.regs m)) })

/-- Each of the nine forms of 41_arithmetic.md R153 meets the claim for its width, with the operands of its row. -/
def NineFormsEach (ops : NineForms) (p8 : Instr → RM8 → Src8 → Prop) (p16 : Instr → RM16 → Src16 → Prop) : Prop :=
  (∀ rm r, p8 (ops.rm8R8 rm r) rm (.rm (.reg r))) ∧
  (∀ rm r, p16 (ops.rm16R16 rm r) rm (.rm (.reg r))) ∧
  (∀ r rm, p8 (ops.r8Rm8 r rm) (.reg r) (.rm rm)) ∧
  (∀ r rm, p16 (ops.r16Rm16 r rm) (.reg r) (.rm rm)) ∧
  (∀ v, p8 (ops.alImm8 v) (.reg .al) (.imm v)) ∧
  (∀ v, p16 (ops.axImm16 v) (.reg .ax) (.imm v)) ∧
  (∀ rm v, p8 (ops.rm8Imm8 rm v) rm (.imm v)) ∧
  (∀ rm v, p16 (ops.rm16Imm16 rm v) rm (.imm v)) ∧
  (∀ rm v, p16 (ops.rm16Simm8 rm v) rm (.imm (sext16 v)))

/-- All nine forms of 41_arithmetic.md R153 compute and write. -/
def NineFormsOp (ops : NineForms) (op8 : Byte → Byte → Byte) (fl8 : Flags → Byte → Byte → Flags)
    (op16 : Word → Word → Word) (fl16 : Flags → Word → Word → Flags) : Prop :=
  NineFormsEach ops (fun i dst src => ByteOp i dst src op8 fl8) (fun i dst src => WordOp i dst src op16 fl16)

/-- All nine forms of 41_arithmetic.md R153 compute flags only. -/
def NineFormsTest (ops : NineForms) (fl8 : Flags → Byte → Byte → Flags) (fl16 : Flags → Word → Word → Flags) : Prop :=
  NineFormsEach ops (fun i dst src => ByteTest i dst src fl8) (fun i dst src => WordTest i dst src fl16)

/-- The bytes and the lengths of the nine forms, with the opcode base and the slot of group 1 (41_arithmetic.md R153). -/
def NineFormsBytes (ops : NineForms) (base : Byte) (slot : BitVec 3) : Prop :=
  (∀ rm r, encode (ops.rm8R8 rm r) = base :: rm.bytes r.num ∧ (ops.rm8R8 rm r).len = 2 + rm.dispBytes) ∧
  (∀ rm r, encode (ops.rm16R16 rm r) = (base + 1) :: rm.bytes r.num ∧ (ops.rm16R16 rm r).len = 2 + rm.dispBytes) ∧
  (∀ r rm, encode (ops.r8Rm8 r rm) = (base + 2) :: rm.bytes r.num ∧ (ops.r8Rm8 r rm).len = 2 + rm.dispBytes) ∧
  (∀ r rm, encode (ops.r16Rm16 r rm) = (base + 3) :: rm.bytes r.num ∧ (ops.r16Rm16 r rm).len = 2 + rm.dispBytes) ∧
  (∀ v, encode (ops.alImm8 v) = [base + 4, v] ∧ (ops.alImm8 v).len = 2) ∧
  (∀ v, encode (ops.axImm16 v) = [base + 5, lowByte v, highByte v] ∧ (ops.axImm16 v).len = 3) ∧
  (∀ rm v, encode (ops.rm8Imm8 rm v) = 0x80 :: (rm.bytes slot ++ [v]) ∧ (ops.rm8Imm8 rm v).len = 3 + rm.dispBytes) ∧
  (∀ rm v, encode (ops.rm16Imm16 rm v) = 0x81 :: (rm.bytes slot ++ [lowByte v, highByte v]) ∧
    (ops.rm16Imm16 rm v).len = 4 + rm.dispBytes) ∧
  (∀ rm v, encode (ops.rm16Simm8 rm v) = 0x83 :: (rm.bytes slot ++ [v]) ∧ (ops.rm16Simm8 rm v).len = 3 + rm.dispBytes)

/-- A conditional jump (43_control_flow.md section 3): taken on `cond`, and then to the sum of the next instruction's
address and the extended offset, else to the next instruction; only pc changes. -/
def JumpsWhen (mk : Byte → Instr) (opcode : Byte) (cond : Flags → Prop) : Prop :=
  ∀ (d : Byte) (s : State),
    encode (mk d) = [opcode, d] ∧
    (cond s.flags → exec (mk d) s = .next { s with pc := s.pc + 2 + d.signExtend 16 }) ∧
    (¬ cond s.flags → exec (mk d) s = .next { s with pc := s.pc + 2 })

/-- On `t` each comparing jump is taken exactly when `a` and `b` compare as its name says, unsigned or signed, and changes
nothing but pc (43_control_flow.md R194 to R199, R204 to R207). -/
def JumpsCompare {n : Nat} (a b : BitVec n) (d : Byte) (t : State) : Prop :=
  let jump := fun c : Bool => { t with pc := if c then t.pc + 2 + d.signExtend 16 else t.pc + 2 }
  exec (.je d) t = .next (jump (decide (a = b))) ∧ exec (.jne d) t = .next (jump (decide (a ≠ b))) ∧
  exec (.jb d) t = .next (jump (decide (a.toNat < b.toNat))) ∧
  exec (.jnb d) t = .next (jump (decide (b.toNat ≤ a.toNat))) ∧
  exec (.jbe d) t = .next (jump (decide (a.toNat ≤ b.toNat))) ∧
  exec (.jnbe d) t = .next (jump (decide (b.toNat < a.toNat))) ∧
  exec (.jl d) t = .next (jump (decide (a.toInt < b.toInt))) ∧
  exec (.jnl d) t = .next (jump (decide (b.toInt ≤ a.toInt))) ∧
  exec (.jle d) t = .next (jump (decide (a.toInt ≤ b.toInt))) ∧
  exec (.jnle d) t = .next (jump (decide (b.toInt < a.toInt)))

/-- With its operands in range a byte instruction completes, and the jumps then compare the two. -/
def ByteCompare (i : Instr) (dst : RM8) (src : Src8) : Prop :=
  ∀ (s : State) (d : Byte), inRange8 s dst → srcInRange8 s src →
    ∃ t, exec i s = .next t ∧ JumpsCompare (value8 s dst) (srcValue8 s src) d t

/-- With its operands in range a word instruction completes, and the jumps then compare the two. -/
def WordCompare (i : Instr) (dst : RM16) (src : Src16) : Prop :=
  ∀ (s : State) (d : Byte), inRange16 s dst → srcInRange16 s src →
    ∃ t, exec i s = .next t ∧ JumpsCompare (value16 s dst) (srcValue16 s src) d t

/-- An encoding rejected by name (44_halt_nop_rejected.md section 2): decoding reads its opcode byte and nothing more, and
running it changes Status and nothing else. -/
def RejectedAs (i : Instr) (opcode : Byte) : Prop :=
  (∀ rest, decode (opcode :: rest) = .ok (i, rest)) ∧
  ∀ s : State, exec i s = .next { s with status := .faulted (.unsupportedInstruction (.opcode opcode)) }

/-! ## Lists written out from the spec -/

/-- The opcode bytes that 30_encoding.md R101 marks unsupported, in the order of its rows, without the ten rejected by name:
those from 00 to 5F. -/
def unsupportedOpcodesLow : List Byte :=
  [0x06, 0x07, 0x0E, 0x0F, 0x10, 0x11, 0x12, 0x13, 0x14, 0x15, 0x16, 0x17,
    0x18, 0x19, 0x1A, 0x1B, 0x1C, 0x1D, 0x1E, 0x1F, 0x26, 0x27, 0x2E, 0x2F,
    0x36, 0x37, 0x3E, 0x3F]

/-- Those from 60 to BF. -/
def unsupportedOpcodesMid : List Byte :=
  [0x60, 0x61, 0x62, 0x63, 0x64, 0x65, 0x66, 0x67, 0x68, 0x69, 0x6A, 0x6B,
    0x6C, 0x6D, 0x6E, 0x6F, 0x82, 0x84, 0x85, 0x86, 0x87, 0x8C, 0x8D, 0x8E,
    0x91, 0x92, 0x93, 0x94, 0x95, 0x96, 0x97, 0x98, 0x99, 0x9A, 0x9C, 0x9D,
    0x9E, 0x9F, 0xA4, 0xA5, 0xA6, 0xA7, 0xA8, 0xA9, 0xAA, 0xAB, 0xAC, 0xAD,
    0xAE, 0xAF]

/-- Those from C0 to FF. -/
def unsupportedOpcodesHigh : List Byte :=
  [0xC0, 0xC1, 0xC4, 0xC5, 0xC8, 0xC9, 0xCA, 0xCB, 0xCC, 0xCD, 0xCE, 0xCF,
    0xD0, 0xD1, 0xD2, 0xD3, 0xD4, 0xD5, 0xD6, 0xD7, 0xD8, 0xD9, 0xDA, 0xDB,
    0xDC, 0xDD, 0xDE, 0xDF, 0xE0, 0xE1, 0xE3, 0xEA, 0xF1, 0xF2, 0xF3, 0xF5,
    0xF8, 0xF9, 0xFA, 0xFB, 0xFC, 0xFD]

/-- All of them: with the ten rejected by name they are the 130 bytes R101 counts. -/
def unsupportedOpcodes : List Byte := unsupportedOpcodesLow ++ unsupportedOpcodesMid ++ unsupportedOpcodesHigh

/-- The unsupported slots of each group opcode (30_encoding.md R103 to R108). -/
def unsupportedSlots : List (Byte × List (BitVec 3)) :=
  [(0x80, [2, 3]), (0x81, [2, 3]), (0x83, [2, 3]), (0xF6, [0, 1, 3, 5]), (0xF7, [0, 1, 3, 5]),
    (0xFE, [2, 3, 4, 5, 6, 7]), (0xFF, [3, 5, 7]), (0x8F, [1, 2, 3, 4, 5, 6, 7]), (0xC6, [1, 2, 3, 4, 5, 6, 7]),
    (0xC7, [1, 2, 3, 4, 5, 6, 7])]

/-- Words the spec writes out, with the instruction it says each is. ADD: the examples of R80, R91, R154. -/
def specWordsAdd : List (List Byte × Instr) :=
  [([0x81, 0x06, 0x34, 0x12, 0x78, 0x56], .addRm16Imm16 (.mem (.direct 0x1234)) 0x5678),
   ([0x83, 0xC3, 0xFF], .addRm16Simm8 (.reg .bx) 0xFF),
   ([0x01, 0xD8], .addRm16R16 (.reg .ax) .bx),
   ([0x03, 0xC3], .addR16Rm16 .ax (.reg .bx))]

/-- Words the spec writes out, with the instruction it says each is. MOV, PUSH, POP: the examples of R131, R132, R133. -/
def specWordsMove : List (List Byte × Instr) :=
  [([0xB8, 0x05, 0x00], .movR16Imm16 .ax 5),
   ([0xBB, 0x0A, 0x00], .movR16Imm16 .bx 10),
   ([0x89, 0xC0], .movRm16R16 (.reg .ax) .ax),
   ([0x50], .pushR16 .ax),
   ([0xFF, 0xF4], .pushRm16 (.reg .sp)),
   ([0x5B], .popR16 .bx),
   ([0x8F, 0xC4], .popRm16 (.reg .sp))]

/-- Words the spec writes out, with the instruction it says each is. SUB, CMP, INC, DEC, MUL, DIV, IDIV: the examples of R155 to R161. -/
def specWordsArith : List (List Byte × Instr) :=
  [([0x29, 0xD8], .subRm16R16 (.reg .ax) .bx),
   ([0x3C, 0x20], .cmpAlImm8 0x20),
   ([0x40], .incR16 .ax),
   ([0x49], .decR16 .cx),
   ([0xF6, 0xE3], .mulRm8 (.reg .bl)),
   ([0xF7, 0xF1], .divRm16 (.reg .cx)),
   ([0xF6, 0xFB], .idivRm8 (.reg .bl))]

/-- Words the spec writes out, with the instruction it says each is. AND, OR, XOR, NOT: the examples of R181 to R184. -/
def specWordsLogic : List (List Byte × Instr) :=
  [([0x25, 0xFF, 0x0F], .andAxImm16 0x0FFF),
   ([0x83, 0xE3, 0xF0], .andRm16Simm8 (.reg .bx) 0xF0),
   ([0x0C, 0x80], .orAlImm8 0x80),
   ([0x31, 0xC0], .xorRm16R16 (.reg .ax) .ax),
   ([0xF6, 0xD0], .notRm8 (.reg .al))]

/-- Words the spec writes out, with the instruction it says each is. JMP, CALL, RET, LOOP, HLT, NOP: the examples of R191, R208 to R210, R92, R230, R231. -/
def specWordsControl : List (List Byte × Instr) :=
  [([0xEB, 0xFE], .jmpRel8 0xFE),
   ([0xE9, 0xED, 0xFF], .jmpRel16 0xFFED),
   ([0xFF, 0xE0], .jmpRm16 (.reg .ax)),
   ([0xE8, 0x0A, 0x00], .callRel16 10),
   ([0xFF, 0xD4], .callRm16 (.reg .sp)),
   ([0xC2, 0x04, 0x00], .retImm16 4),
   ([0xE2, 0xFE], .loop 0xFE),
   ([0xF4], .hlt),
   ([0x90], .nop)]

/-- All of them. -/
def specWords : List (List Byte × Instr) :=
  specWordsAdd ++ specWordsMove ++ specWordsArith ++ specWordsLogic ++ specWordsControl

/-! ## Two states that differ in the control flags only -/

/-- The session with TF, IF and DF set to the given values. -/
def State.withControlFlags (s : State) (tf if_ df : Bool) : State :=
  { s with flags := { s.flags with trap := tf, interrupt := if_, direction := df } }

end Sys2Proof.Machine
end

