-- ==== Sys2Proof/Certificates/Slice0/Obligations.lean ====
section
/-! DEFINITION. The statements for the provers. Each docstring names the rule it formalises; "the spec's decision D<n>" is a
row of 92_eei_decisions.md, and a clause that rests on one is not the source's. -/

open Sys2Proof Sys2Proof.Machine

/-! ## Encoding -/

/-- Decoding the encoding of any well-formed instruction gives it back, with every operand, and leaves the bytes after it
(30_encoding.md R98, R99). -/
def Obligations.DecodeOfEncode : Prop :=
  ∀ (i : Instr) (rest : List Byte), i.wf = true → decode (encode i ++ rest) = .ok (i, rest)

/-- Whatever the decoder accepts is well formed and is exactly the bytes the encoder writes: no two instructions share an
encoding and no byte is skipped (30_encoding.md R99, section 9). -/
def Obligations.DecodedBytesAreTheEncoding : Prop :=
  ∀ (bs : List Byte) (i : Instr) (rest : List Byte),
    decode bs = .ok (i, rest) → i.wf = true ∧ bs = encode i ++ rest

/-- The decoded length is the number of bytes consumed, one to six (30_encoding.md R80, R81). -/
def Obligations.DecodedLengthIsBytesConsumed : Prop :=
  ∀ (bs : List Byte) (i : Instr) (rest : List Byte),
    decode bs = .ok (i, rest) → bs.length = i.len + rest.length ∧ 1 ≤ i.len ∧ i.len ≤ 6

/-- Any encoding cut short is refused with the mark `truncated` (20_memory.md R65; the spec's decision D12). -/
def Obligations.CutEncodingsAreTruncated : Prop :=
  ∀ (i : Instr) (k : Nat), i.wf = true → k < i.len → decode ((encode i).take k) = .error .truncated

/-- Every opcode byte that R101 marks unsupported, but for the ten rejected by name, is refused with that byte whatever
follows, and every unsupported slot of a group opcode with the opcode and the mode byte (30_encoding.md R101, R103 to R108;
the spec's decision D1). R101 counts 130 bytes and the list has 120: the ten of IN, OUT, LOCK and WAIT (E4 to E7, EC to EF,
F0, 9B) decode to forms of their own, which is the model's choice (log 7), and RejectedByNameRaise is about them. -/
def Obligations.UnsupportedEncodingsAreRefused : Prop :=
  (∀ b ∈ unsupportedOpcodes, ∀ rest, decode (b :: rest) = .error (.opcode b)) ∧
  (∀ g ∈ unsupportedSlots, ∀ m, regField m ∈ g.2 → ∀ rest, decode (g.1 :: m :: rest) = .error (.slot g.1 m))

/-- The words the spec writes out decode to the instructions it names. -/
def Obligations.SpecWordsDecode : Prop :=
  ∀ p ∈ specWords, ∀ rest, decode (p.1 ++ rest) = .ok (p.2, rest)

/-! ## Registers, memory, effective addresses -/

/-- No general register is hard-wired or shared: after a write each register reads the value written, every other one
what it held; the encoding numbers 0 to 7 are AX, CX, DX, BX, SP, BP, SI, DI (10_state.md R20, R21). -/
def Obligations.RegisterReadAfterWrite : Prop :=
  (∀ (g : Regs) (r q : Reg16) (v : Word), (g.set r v).get q = if q = r then v else g.get q) ∧
  [0, 1, 2, 3, 4, 5, 6, 7].map Reg16.ofNum = [.ax, .cx, .dx, .bx, .sp, .bp, .si, .di]

/-- The byte registers are the halves of AX, CX, DX, BX, not storage of their own: each reads its half, a write to one
leaves the other half and every other register, a write to the whole changes both (10_state.md R22, R23). -/
def Obligations.ByteRegistersAreHalves : Prop :=
  [0, 1, 2, 3, 4, 5, 6, 7].map Reg8.ofNum = [.al, .cl, .dl, .bl, .ah, .ch, .dh, .bh] ∧
  (∀ g : Regs,
    g.get8 .al = lowByte g.ax ∧ g.get8 .ah = highByte g.ax ∧ g.get8 .bl = lowByte g.bx ∧ g.get8 .bh = highByte g.bx ∧
    g.get8 .cl = lowByte g.cx ∧ g.get8 .ch = highByte g.cx ∧ g.get8 .dl = lowByte g.dx ∧ g.get8 .dh = highByte g.dx) ∧
  (∀ (g : Regs) (v : Byte),
    g.set8 .al v = { g with ax := (g.ax &&& 0xFF00) ||| v.setWidth 16 } ∧
    g.set8 .bl v = { g with bx := (g.bx &&& 0xFF00) ||| v.setWidth 16 } ∧
    g.set8 .cl v = { g with cx := (g.cx &&& 0xFF00) ||| v.setWidth 16 } ∧
    g.set8 .dl v = { g with dx := (g.dx &&& 0xFF00) ||| v.setWidth 16 } ∧
    g.set8 .ah v = { g with ax := (g.ax &&& 0x00FF) ||| (v.setWidth 16 <<< 8) } ∧
    g.set8 .bh v = { g with bx := (g.bx &&& 0x00FF) ||| (v.setWidth 16 <<< 8) } ∧
    g.set8 .ch v = { g with cx := (g.cx &&& 0x00FF) ||| (v.setWidth 16 <<< 8) } ∧
    g.set8 .dh v = { g with dx := (g.dx &&& 0x00FF) ||| (v.setWidth 16 <<< 8) }) ∧
  (∀ (g : Regs) (r : Reg8) (v : Word), ∃ b,
    (g.set (wholeOf r) v).get8 r = b ∧ b = if isHigh r then highByte v else lowByte v)

/-- MemRead (20_memory.md R53): a byte inside memory reads its cell, a word inside memory its two cells as
Mem[addr] + 256 * Mem[addr + 1]; one byte outside is a MemoryFault with the address, addr + 1 not reduced. That a read
changes nothing is its type: it answers no state. -/
def Obligations.MemReadChecksAndReads : Prop :=
  ∀ (s : State) (a : Word),
    (a.toNat < s.memSize → s.memRead8 a = .ok (s.mem.read a.toNat)) ∧
    (s.memSize ≤ a.toNat → s.memRead8 a = .error (.memoryFault a)) ∧
    (a.toNat + 1 < s.memSize → ∃ v : Word, s.memRead16 a = .ok v ∧
      v.toNat = (s.mem.read a.toNat).toNat + 256 * (s.mem.read (a.toNat + 1)).toNat) ∧
    (s.memSize ≤ a.toNat + 1 → s.memRead16 a = .error (.memoryFault a))

/-- MemWrite (20_memory.md R54): inside memory the addressed cells take the value and everything else stays; one byte
outside is a MemoryFault and neither byte is written. Canonical memory is the premise (StepKeepsInvariant). -/
def Obligations.MemWriteChecksAndStores : Prop :=
  ∀ (s : State) (a : Word), s.mem.wf →
    (∀ v : Byte, (s.memSize ≤ a.toNat → s.memWrite8 a v = .error (.memoryFault a)) ∧
      (a.toNat < s.memSize → ∃ m : Memory, s.memWrite8 a v = .ok { s with mem := m } ∧
        m.wf ∧ ∀ x, m.read x = if x = a.toNat then v else s.mem.read x)) ∧
    (∀ v : Word, (s.memSize ≤ a.toNat + 1 → s.memWrite16 a v = .error (.memoryFault a)) ∧
      (a.toNat + 1 < s.memSize → ∃ m : Memory, s.memWrite16 a v = .ok { s with mem := m } ∧
        m.wf ∧ ∀ x, m.read x = if x = a.toNat then lowByte v else if x = a.toNat + 1 then highByte v else s.mem.read x))

/-- Memory is little-endian (20_memory.md R52): after a word is written its low byte reads at the address and its high byte
at the next, and the word reads back; and the 16-bit immediate, direct address, displacement and relative offset of an
instruction have their low byte first. -/
def Obligations.MemoryIsLittleEndian : Prop :=
  (∀ (s : State) (a : Word) (v : Word), s.mem.wf → a.toNat + 1 < s.memSize →
    ∃ t, s.memWrite16 a v = .ok t ∧ t.memRead8 a = .ok (v.extractLsb' 0 8) ∧
      t.memRead8 (a + 1) = .ok (v.extractLsb' 8 8) ∧ t.memRead16 a = .ok v) ∧
  (∀ (lo hi : Byte) (rest : List Byte),
    decode (0xB8 :: lo :: hi :: rest) = .ok (.movR16Imm16 .ax (hi ++ lo), rest) ∧
    decode (0xA0 :: lo :: hi :: rest) = .ok (.movAlMoffs (hi ++ lo), rest) ∧
    decode (0x8B :: 0x87 :: lo :: hi :: rest) = .ok (.movR16Rm16 .ax (.mem (.disp16 .bx (hi ++ lo))), rest) ∧
    decode (0xE9 :: lo :: hi :: rest) = .ok (.jmpRel16 (hi ++ lo), rest))

/-- A word access at 65535 always faults, whatever MEM_SIZE is (20_memory.md R55; the spec's decision D9). -/
def Obligations.WordAtTopAlwaysFaults : Prop :=
  ∀ (s : State) (v : Word),
    s.memRead16 0xFFFF = .error (.memoryFault 0xFFFF) ∧ s.memWrite16 0xFFFF v = .error (.memoryFault 0xFFFF)

/-- The effective address is the row of the table of 30_encoding.md R86 summed modulo 2^16 (R87; that the sum wraps is the
spec's decision D9), the 8-bit displacement sign-extended (R89); mod = 0 with rm = 6 is the direct address (R88). The
address of `noDisp .bp`, BP alone, is the model's choice (log 15): no encoding gives that term, and it serves here as the
base of the two BP rows with a displacement. -/
def Obligations.EffectiveAddressTable : Prop :=
  ∀ g : Regs,
    ([.bxsi, .bxdi, .bpsi, .bpdi, .si, .di, .bp, .bx].map fun b => (effAddr g (.noDisp b)).toNat) =
      [(g.bx.toNat + g.si.toNat) % 65536, (g.bx.toNat + g.di.toNat) % 65536, (g.bp.toNat + g.si.toNat) % 65536,
        (g.bp.toNat + g.di.toNat) % 65536, g.si.toNat, g.di.toNat, g.bp.toNat, g.bx.toNat] ∧
    (∀ (b : BaseIndex) (d : Byte),
      ((effAddr g (.disp8 b d)).toNat : Int) = (((effAddr g (.noDisp b)).toNat : Int) + d.toInt) % 65536) ∧
    (∀ (b : BaseIndex) (d : Word),
      (effAddr g (.disp16 b d)).toNat = ((effAddr g (.noDisp b)).toNat + d.toNat) % 65536) ∧
    (∀ a : Word, effAddr g (.direct a) = a) ∧
    ([0, 1, 2, 3, 4, 5, 6, 7].map BaseIndex.ofNum = [.bxsi, .bxdi, .bpsi, .bpdi, .si, .di, .bp, .bx]) ∧
    (∀ (lo hi : Byte) (rest : List Byte), takeMem 0 6 (lo :: hi :: rest) = some (.direct (hi ++ lo), rest))

/-! ## Flags -/

/-- SetSZP (41_arithmetic.md R150), at both widths: SF is the top bit, ZF says that the result is 0, PF that bits 7:0 hold
an even number of ones; the other six flags keep their values. -/
def Obligations.ResultFlagsAreSignZeroParity : Prop :=
  ∀ n : Nat, n = 8 ∨ n = 16 → ∀ (f : Flags) (r : BitVec n),
    f.setSZP r = { f with
      sign := r.getLsbD (n - 1)
      zero := decide (r.toNat = 0)
      parity := decide (((List.range 8).countP fun k => r.getLsbD k) % 2 = 0) }

/-- Add (41_arithmetic.md R151), at both widths: CF is the carry out, OF says exactly that the signed sum is out of range
and is the bit formula of the rule, AF is the carry out of the low nibble, SF, ZF, PF are those of the wrapped sum; TF, IF
and DF keep their values. -/
def Obligations.FlagsAfterAddition : Prop :=
  ∀ n : Nat, n = 8 ∨ n = 16 → ∀ (f : Flags) (a b : BitVec n),
    let r := BitVec.ofNat n (a.toNat + b.toNat)
    ((f.afterAdd a b).carry = true ↔ 2 ^ n ≤ a.toNat + b.toNat) ∧
    ((f.afterAdd a b).overflow = true ↔ a.getLsbD (n - 1) = b.getLsbD (n - 1) ∧ r.getLsbD (n - 1) ≠ a.getLsbD (n - 1)) ∧
    ((f.afterAdd a b).overflow = true ↔ ¬ (-2 ^ (n - 1) ≤ a.toInt + b.toInt ∧ a.toInt + b.toInt ≤ 2 ^ (n - 1) - 1)) ∧
    ((f.afterAdd a b).aux = true ↔ 0xF < a.toNat % 16 + b.toNat % 16) ∧
    (f.afterAdd a b).sign = (f.setSZP r).sign ∧ (f.afterAdd a b).zero = (f.setSZP r).zero ∧
    (f.afterAdd a b).parity = (f.setSZP r).parity ∧ (f.afterAdd a b).trap = f.trap ∧
    (f.afterAdd a b).interrupt = f.interrupt ∧ (f.afterAdd a b).direction = f.direction

/-- Sub (41_arithmetic.md R152; that the source's words mean these formulas is the spec's decision D24), at both widths: CF
and AF are borrows, OF says exactly that the signed difference is out of range and is the bit formula of the rule. -/
def Obligations.FlagsAfterSubtraction : Prop :=
  ∀ n : Nat, n = 8 ∨ n = 16 → ∀ (f : Flags) (a b : BitVec n),
    let r := BitVec.ofInt n ((a.toNat : Int) - (b.toNat : Int))
    ((f.afterSub a b).carry = true ↔ a.toNat < b.toNat) ∧
    ((f.afterSub a b).overflow = true ↔ a.getLsbD (n - 1) ≠ b.getLsbD (n - 1) ∧ r.getLsbD (n - 1) ≠ a.getLsbD (n - 1)) ∧
    ((f.afterSub a b).overflow = true ↔ ¬ (-2 ^ (n - 1) ≤ a.toInt - b.toInt ∧ a.toInt - b.toInt ≤ 2 ^ (n - 1) - 1)) ∧
    ((f.afterSub a b).aux = true ↔ a.toNat % 16 < b.toNat % 16) ∧
    (f.afterSub a b).sign = (f.setSZP r).sign ∧ (f.afterSub a b).zero = (f.setSZP r).zero ∧
    (f.afterSub a b).parity = (f.setSZP r).parity ∧ (f.afterSub a b).trap = f.trap ∧
    (f.afterSub a b).interrupt = f.interrupt ∧ (f.afterSub a b).direction = f.direction

/-- Logic (42_logic.md R180): CF and OF are cleared, SF, ZF, PF are those of the result, AF keeps its value (the spec's
decision D18), and so do TF, IF and DF. -/
def Obligations.FlagsAfterLogic : Prop :=
  ∀ n : Nat, n = 8 ∨ n = 16 → ∀ (f : Flags) (r : BitVec n),
    f.afterLogic r = { f with
      carry := false
      overflow := false
      sign := r.getLsbD (n - 1)
      zero := decide (r.toNat = 0)
      parity := decide (((List.range 8).countP fun k => r.getLsbD k) % 2 = 0) }

/-! ## Arithmetic and logic -/

/-- ADD, all nine forms (41_arithmetic.md R154, R153): dst takes dst + src modulo 2^n with the flags of Add
(FlagsAfterAddition) and pc moves past the instruction; a memory operand out of range is a MemoryFault that changes
Status only (the spec's decision D16). -/
def Obligations.AddWritesSumAndFlags : Prop :=
  NineFormsOp addForms (fun a b => BitVec.ofNat 8 (a.toNat + b.toNat)) Flags.afterAdd
    (fun a b => BitVec.ofNat 16 (a.toNat + b.toNat)) Flags.afterAdd ∧
  NineFormsBytes addForms 0x00 0

/-- SUB, all nine forms (41_arithmetic.md R155, R153): dst takes dst - src modulo 2^n with the flags of Sub
(FlagsAfterSubtraction; the spec's decision D24); a memory operand out of range faults (D16). -/
def Obligations.SubWritesDifferenceAndFlags : Prop :=
  NineFormsOp subForms (fun a b => BitVec.ofInt 8 ((a.toNat : Int) - (b.toNat : Int))) Flags.afterSub
    (fun a b => BitVec.ofInt 16 ((a.toNat : Int) - (b.toNat : Int))) Flags.afterSub ∧
  NineFormsBytes subForms 0x28 5

/-- CMP, all nine forms (41_arithmetic.md R156, R153): the flags of Sub, no register and no memory written; a memory
operand out of range faults (the spec's decisions D24, D16). -/
def Obligations.CmpSetsFlagsOnly : Prop :=
  NineFormsTest cmpForms Flags.afterSub Flags.afterSub ∧ NineFormsBytes cmpForms 0x38 7

/-- AND, all nine forms (42_logic.md R181): dst takes dst & src with the flags of Logic (the spec's decisions D18, D16). -/
def Obligations.AndWritesBitwiseAnd : Prop :=
  NineFormsOp andForms (fun a b => a &&& b) (fun f a b => f.afterLogic (a &&& b))
    (fun a b => a &&& b) (fun f a b => f.afterLogic (a &&& b)) ∧
  NineFormsBytes andForms 0x20 4

/-- OR, all nine forms (42_logic.md R182): dst takes dst | src with the flags of Logic (the spec's decisions D18, D16). -/
def Obligations.OrWritesBitwiseOr : Prop :=
  NineFormsOp orForms (fun a b => a ||| b) (fun f a b => f.afterLogic (a ||| b))
    (fun a b => a ||| b) (fun f a b => f.afterLogic (a ||| b)) ∧
  NineFormsBytes orForms 0x08 1

/-- XOR, all nine forms (42_logic.md R183): dst takes dst ^ src with the flags of Logic (the spec's decisions D18, D16). -/
def Obligations.XorWritesBitwiseXor : Prop :=
  NineFormsOp xorForms (fun a b => a ^^^ b) (fun f a b => f.afterLogic (a ^^^ b))
    (fun a b => a ^^^ b) (fun f a b => f.afterLogic (a ^^^ b)) ∧
  NineFormsBytes xorForms 0x30 6

/-- INC, all three forms (41_arithmetic.md R157): dst takes dst + 1 with all six flags of Add, CF too; a memory operand out
of range faults (the spec's decision D16). -/
def Obligations.IncAddsOne : Prop :=
  (∀ r, WordUnary (.incR16 r) (.reg r) (fun a => BitVec.ofNat 16 (a.toNat + 1)) (fun f a => f.afterAdd a 1) ∧
    encode (.incR16 r) = [0x40 + r.num.setWidth 8] ∧ (Instr.incR16 r).len = 1) ∧
  (∀ rm, ByteUnary (.incRm8 rm) rm (fun a => BitVec.ofNat 8 (a.toNat + 1)) (fun f a => f.afterAdd a 1) ∧
    encode (.incRm8 rm) = 0xFE :: rm.bytes 0 ∧ (Instr.incRm8 rm).len = 2 + rm.dispBytes) ∧
  (∀ rm, WordUnary (.incRm16 rm) rm (fun a => BitVec.ofNat 16 (a.toNat + 1)) (fun f a => f.afterAdd a 1) ∧
    encode (.incRm16 rm) = 0xFF :: rm.bytes 0 ∧ (Instr.incRm16 rm).len = 2 + rm.dispBytes)

/-- DEC, all three forms (41_arithmetic.md R158): dst takes dst - 1 with all six flags of Sub, CF too (the spec's decision
D24); a memory operand out of range faults (D16). -/
def Obligations.DecSubtractsOne : Prop :=
  (∀ r, WordUnary (.decR16 r) (.reg r) (fun a => BitVec.ofInt 16 ((a.toNat : Int) - 1)) (fun f a => f.afterSub a 1) ∧
    encode (.decR16 r) = [0x48 + r.num.setWidth 8] ∧ (Instr.decR16 r).len = 1) ∧
  (∀ rm, ByteUnary (.decRm8 rm) rm (fun a => BitVec.ofInt 8 ((a.toNat : Int) - 1)) (fun f a => f.afterSub a 1) ∧
    encode (.decRm8 rm) = 0xFE :: rm.bytes 1 ∧ (Instr.decRm8 rm).len = 2 + rm.dispBytes) ∧
  (∀ rm, WordUnary (.decRm16 rm) rm (fun a => BitVec.ofInt 16 ((a.toNat : Int) - 1)) (fun f a => f.afterSub a 1) ∧
    encode (.decRm16 rm) = 0xFF :: rm.bytes 1 ∧ (Instr.decRm16 rm).len = 2 + rm.dispBytes)

/-- NOT, both forms (42_logic.md R184): dst takes 2^n - 1 - dst with the flags of Logic (90_conflicts.md C2; the spec's
decisions D18, D16). -/
def Obligations.NotComplementsAndSetsFlags : Prop :=
  (∀ rm, ByteUnary (.notRm8 rm) rm (fun a => BitVec.ofNat 8 (255 - a.toNat))
      (fun f a => f.afterLogic (BitVec.ofNat 8 (255 - a.toNat))) ∧
    encode (.notRm8 rm) = 0xF6 :: rm.bytes 2 ∧ (Instr.notRm8 rm).len = 2 + rm.dispBytes) ∧
  (∀ rm, WordUnary (.notRm16 rm) rm (fun a => BitVec.ofNat 16 (65535 - a.toNat))
      (fun f a => f.afterLogic (BitVec.ofNat 16 (65535 - a.toNat))) ∧
    encode (.notRm16 rm) = 0xF7 :: rm.bytes 2 ∧ (Instr.notRm16 rm).len = 2 + rm.dispBytes)

/-- MUL, both forms (41_arithmetic.md R159): AX, or DX and AX, take the exact product; CF and OF say that its high half is
not 0; SF, ZF, PF and AF keep their values (the spec's decision D19); a memory operand out of range faults (D16). -/
def Obligations.MulWritesExactProduct : Prop :=
  (∀ (rm : RM8) (s : State),
    encode (.mulRm8 rm) = 0xF6 :: rm.bytes 4 ∧
    (inRange8 s rm →
      let p := (lowByte s.regs.ax).toNat * (value8 s rm).toNat
      exec (.mulRm8 rm) s = .next { s with
        regs := { s.regs with ax := BitVec.ofNat 16 p }
        flags := { s.flags with carry := decide (p / 256 ≠ 0), overflow := decide (p / 256 ≠ 0) }
        pc := s.pc + BitVec.ofNat 16 (2 + rm.dispBytes) }) ∧
    (∀ m, rm = .mem m → s.memSize ≤ (effAddr s.regs m).toNat →
      exec (.mulRm8 rm) s = .next { s with status := .faulted (.memoryFault (effAddr s.regs m)) })) ∧
  (∀ (rm : RM16) (s : State),
    encode (.mulRm16 rm) = 0xF7 :: rm.bytes 4 ∧
    (inRange16 s rm →
      let p := s.regs.ax.toNat * (value16 s rm).toNat
      exec (.mulRm16 rm) s = .next { s with
        regs := { s.regs with ax := BitVec.ofNat 16 (p % 65536), dx := BitVec.ofNat 16 (p / 65536) }
        flags := { s.flags with carry := decide (p / 65536 ≠ 0), overflow := decide (p / 65536 ≠ 0) }
        pc := s.pc + BitVec.ofNat 16 (2 + rm.dispBytes) }) ∧
    (∀ m, rm = .mem m → s.memSize ≤ (effAddr s.regs m).toNat + 1 →
      exec (.mulRm16 rm) s = .next { s with status := .faulted (.memoryFault (effAddr s.regs m)) }))

/-- DIV, both forms (41_arithmetic.md R160, R253, R254): quotient and remainder of the double-width accumulator, no flag
written (the spec's decision D20); a zero divisor is DivideByZero, a quotient that does not fit DivideOverflow (D21); a
fault changes Status only (D16). -/
def Obligations.DivWritesQuotientAndRemainder : Prop :=
  (∀ (rm : RM8) (s : State),
    encode (.divRm8 rm) = 0xF6 :: rm.bytes 6 ∧
    (inRange8 s rm →
      let num := s.regs.ax.toNat
      let b := (value8 s rm).toNat
      (b = 0 → exec (.divRm8 rm) s = .next { s with status := .faulted .divideByZero }) ∧
      (b ≠ 0 → 255 < num / b → exec (.divRm8 rm) s = .next { s with status := .faulted .divideOverflow }) ∧
      (b ≠ 0 → num / b ≤ 255 → exec (.divRm8 rm) s = .next { s with
        regs := { s.regs with ax := BitVec.ofNat 16 (num % b * 256 + num / b) }
        pc := s.pc + BitVec.ofNat 16 (2 + rm.dispBytes) })) ∧
    (∀ m, rm = .mem m → s.memSize ≤ (effAddr s.regs m).toNat →
      exec (.divRm8 rm) s = .next { s with status := .faulted (.memoryFault (effAddr s.regs m)) })) ∧
  (∀ (rm : RM16) (s : State),
    encode (.divRm16 rm) = 0xF7 :: rm.bytes 6 ∧
    (inRange16 s rm →
      let num := s.regs.dx.toNat * 65536 + s.regs.ax.toNat
      let b := (value16 s rm).toNat
      (b = 0 → exec (.divRm16 rm) s = .next { s with status := .faulted .divideByZero }) ∧
      (b ≠ 0 → 65535 < num / b → exec (.divRm16 rm) s = .next { s with status := .faulted .divideOverflow }) ∧
      (b ≠ 0 → num / b ≤ 65535 → exec (.divRm16 rm) s = .next { s with
        regs := { s.regs with ax := BitVec.ofNat 16 (num / b), dx := BitVec.ofNat 16 (num % b) }
        pc := s.pc + BitVec.ofNat 16 (2 + rm.dispBytes) })) ∧
    (∀ m, rm = .mem m → s.memSize ≤ (effAddr s.regs m).toNat + 1 →
      exec (.divRm16 rm) s = .next { s with status := .faulted (.memoryFault (effAddr s.regs m)) }))

/-- IDIV, both forms (41_arithmetic.md R161, R253, R254): signed quotient rounded toward zero and remainder, no flag written
(the spec's decision D20); DivideByZero, or DivideOverflow outside the symmetric range (D21, D22); a fault changes Status
only (D16). -/
def Obligations.IdivWritesSignedQuotientAndRemainder : Prop :=
  (∀ (rm : RM8) (s : State),
    encode (.idivRm8 rm) = 0xF6 :: rm.bytes 7 ∧
    (inRange8 s rm →
      let num := s.regs.ax.toInt
      let d := (value8 s rm).toInt
      (d = 0 → exec (.idivRm8 rm) s = .next { s with status := .faulted .divideByZero }) ∧
      (d ≠ 0 → ¬ (-127 ≤ num.tdiv d ∧ num.tdiv d ≤ 127) →
        exec (.idivRm8 rm) s = .next { s with status := .faulted .divideOverflow }) ∧
      (d ≠ 0 → -127 ≤ num.tdiv d → num.tdiv d ≤ 127 → exec (.idivRm8 rm) s = .next { s with
        regs := { s.regs with ax := joinBytes (BitVec.ofInt 8 (num.tmod d)) (BitVec.ofInt 8 (num.tdiv d)) }
        pc := s.pc + BitVec.ofNat 16 (2 + rm.dispBytes) })) ∧
    (∀ m, rm = .mem m → s.memSize ≤ (effAddr s.regs m).toNat →
      exec (.idivRm8 rm) s = .next { s with status := .faulted (.memoryFault (effAddr s.regs m)) })) ∧
  (∀ (rm : RM16) (s : State),
    encode (.idivRm16 rm) = 0xF7 :: rm.bytes 7 ∧
    (inRange16 s rm →
      let num := (s.regs.dx ++ s.regs.ax : BitVec 32).toInt
      let d := (value16 s rm).toInt
      (d = 0 → exec (.idivRm16 rm) s = .next { s with status := .faulted .divideByZero }) ∧
      (d ≠ 0 → ¬ (-32767 ≤ num.tdiv d ∧ num.tdiv d ≤ 32767) →
        exec (.idivRm16 rm) s = .next { s with status := .faulted .divideOverflow }) ∧
      (d ≠ 0 → -32767 ≤ num.tdiv d → num.tdiv d ≤ 32767 → exec (.idivRm16 rm) s = .next { s with
        regs := { s.regs with ax := BitVec.ofInt 16 (num.tdiv d), dx := BitVec.ofInt 16 (num.tmod d) }
        pc := s.pc + BitVec.ofNat 16 (2 + rm.dispBytes) })) ∧
    (∀ m, rm = .mem m → s.memSize ≤ (effAddr s.regs m).toNat + 1 →
      exec (.idivRm16 rm) s = .next { s with status := .faulted (.memoryFault (effAddr s.regs m)) }))

/-- The laws of multiply and divide on the registers as they stand afterwards (41_arithmetic.md R163, which the spec marks as
derived): MUL loses nothing; when DIV completes num = q * src + r with r < src; when IDIV completes num = q * d + r with
|r| < |d| and r zero or of the sign of num. -/
def Obligations.MultiplyAndDivideLaws : Prop :=
  ∀ s t : State, s.status = .running → t.status = .running →
    (∀ rm, exec (.mulRm8 rm) s = .next t → t.regs.ax.toNat = (s.regs.get8 .al).toNat * (value8 s rm).toNat) ∧
    (∀ rm, exec (.mulRm16 rm) s = .next t →
      t.regs.dx.toNat * 65536 + t.regs.ax.toNat = s.regs.ax.toNat * (value16 s rm).toNat) ∧
    (∀ rm, exec (.divRm8 rm) s = .next t →
      s.regs.ax.toNat = (t.regs.get8 .al).toNat * (value8 s rm).toNat + (t.regs.get8 .ah).toNat ∧
      (t.regs.get8 .ah).toNat < (value8 s rm).toNat) ∧
    (∀ rm, exec (.divRm16 rm) s = .next t →
      s.regs.dx.toNat * 65536 + s.regs.ax.toNat = t.regs.ax.toNat * (value16 s rm).toNat + t.regs.dx.toNat ∧
      t.regs.dx.toNat < (value16 s rm).toNat) ∧
    (∀ rm, exec (.idivRm8 rm) s = .next t →
      s.regs.ax.toInt = (t.regs.get8 .al).toInt * (value8 s rm).toInt + (t.regs.get8 .ah).toInt ∧
      (t.regs.get8 .ah).toInt.natAbs < (value8 s rm).toInt.natAbs ∧
      0 ≤ (t.regs.get8 .ah).toInt * s.regs.ax.toInt) ∧
    (∀ rm, exec (.idivRm16 rm) s = .next t →
      (s.regs.dx ++ s.regs.ax : BitVec 32).toInt = t.regs.ax.toInt * (value16 s rm).toInt + t.regs.dx.toInt ∧
      t.regs.dx.toInt.natAbs < (value16 s rm).toInt.natAbs ∧
      0 ≤ t.regs.dx.toInt * (s.regs.dx ++ s.regs.ax : BitVec 32).toInt)

/-! ## Data movement -/

/-- MOV, all twelve forms (40_data_movement.md R131): src is copied to dst at the instruction's width, nothing else but pc
changes; a memory operand out of range faults (the spec's decision D16). -/
def Obligations.MovCopiesSourceToDestination : Prop :=
  (∀ rm r, ByteMove (.movRm8R8 rm r) rm (.rm (.reg r)) ∧ encode (.movRm8R8 rm r) = 0x88 :: rm.bytes r.num ∧
    (Instr.movRm8R8 rm r).len = 2 + rm.dispBytes) ∧
  (∀ rm r, WordMove (.movRm16R16 rm r) rm (.rm (.reg r)) ∧ encode (.movRm16R16 rm r) = 0x89 :: rm.bytes r.num ∧
    (Instr.movRm16R16 rm r).len = 2 + rm.dispBytes) ∧
  (∀ r rm, ByteMove (.movR8Rm8 r rm) (.reg r) (.rm rm) ∧ encode (.movR8Rm8 r rm) = 0x8A :: rm.bytes r.num ∧
    (Instr.movR8Rm8 r rm).len = 2 + rm.dispBytes) ∧
  (∀ r rm, WordMove (.movR16Rm16 r rm) (.reg r) (.rm rm) ∧ encode (.movR16Rm16 r rm) = 0x8B :: rm.bytes r.num ∧
    (Instr.movR16Rm16 r rm).len = 2 + rm.dispBytes) ∧
  (∀ a, ByteMove (.movAlMoffs a) (.reg .al) (.rm (.mem (.direct a))) ∧
    encode (.movAlMoffs a) = [0xA0, lowByte a, highByte a] ∧ (Instr.movAlMoffs a).len = 3) ∧
  (∀ a, WordMove (.movAxMoffs a) (.reg .ax) (.rm (.mem (.direct a))) ∧
    encode (.movAxMoffs a) = [0xA1, lowByte a, highByte a] ∧ (Instr.movAxMoffs a).len = 3) ∧
  (∀ a, ByteMove (.movMoffsAl a) (.mem (.direct a)) (.rm (.reg .al)) ∧
    encode (.movMoffsAl a) = [0xA2, lowByte a, highByte a] ∧ (Instr.movMoffsAl a).len = 3) ∧
  (∀ a, WordMove (.movMoffsAx a) (.mem (.direct a)) (.rm (.reg .ax)) ∧
    encode (.movMoffsAx a) = [0xA3, lowByte a, highByte a] ∧ (Instr.movMoffsAx a).len = 3) ∧
  (∀ r v, ByteMove (.movR8Imm8 r v) (.reg r) (.imm v) ∧ encode (.movR8Imm8 r v) = [0xB0 + r.num.setWidth 8, v] ∧
    (Instr.movR8Imm8 r v).len = 2) ∧
  (∀ r v, WordMove (.movR16Imm16 r v) (.reg r) (.imm v) ∧
    encode (.movR16Imm16 r v) = [0xB8 + r.num.setWidth 8, lowByte v, highByte v] ∧ (Instr.movR16Imm16 r v).len = 3) ∧
  (∀ rm v, ByteMove (.movRm8Imm8 rm v) rm (.imm v) ∧ encode (.movRm8Imm8 rm v) = 0xC6 :: (rm.bytes 0 ++ [v]) ∧
    (Instr.movRm8Imm8 rm v).len = 3 + rm.dispBytes) ∧
  (∀ rm v, WordMove (.movRm16Imm16 rm v) rm (.imm v) ∧
    encode (.movRm16Imm16 rm v) = 0xC7 :: (rm.bytes 0 ++ [lowByte v, highByte v]) ∧
    (Instr.movRm16Imm16 rm v).len = 4 + rm.dispBytes)

/-- PUSH, both forms (40_data_movement.md R132): SP falls by 2 and the word goes to the new SP; PUSH SP stores the already
lowered value (the spec's decision D23); a memory source out of range faults before the stack is looked at, then a stack
slot out of range faults (D16). -/
def Obligations.PushStoresBelowStackTop : Prop :=
  (∀ (r : Reg16) (s : State),
    encode (.pushR16 r) = [0x50 + r.num.setWidth 8] ∧
    ((s.regs.sp - 2).toNat + 1 < s.memSize → exec (.pushR16 r) s = .next { s with
      mem := s.mem.writeWord (s.regs.sp - 2).toNat (if r = .sp then s.regs.sp - 2 else s.regs.get r)
      regs := { s.regs with sp := s.regs.sp - 2 }
      pc := s.pc + 1 }) ∧
    (s.memSize ≤ (s.regs.sp - 2).toNat + 1 →
      exec (.pushR16 r) s = .next { s with status := .faulted (.memoryFault (s.regs.sp - 2)) })) ∧
  (∀ (rm : RM16) (s : State),
    encode (.pushRm16 rm) = 0xFF :: rm.bytes 6 ∧
    (inRange16 s rm → (s.regs.sp - 2).toNat + 1 < s.memSize → exec (.pushRm16 rm) s = .next { s with
      mem := s.mem.writeWord (s.regs.sp - 2).toNat (if rm = .reg .sp then s.regs.sp - 2 else value16 s rm)
      regs := { s.regs with sp := s.regs.sp - 2 }
      pc := s.pc + BitVec.ofNat 16 (2 + rm.dispBytes) }) ∧
    (∀ m, rm = .mem m → s.memSize ≤ (effAddr s.regs m).toNat + 1 →
      exec (.pushRm16 rm) s = .next { s with status := .faulted (.memoryFault (effAddr s.regs m)) }) ∧
    (inRange16 s rm → s.memSize ≤ (s.regs.sp - 2).toNat + 1 →
      exec (.pushRm16 rm) s = .next { s with status := .faulted (.memoryFault (s.regs.sp - 2)) }))

/-- POP, both forms (40_data_movement.md R133): the word at SP goes to the destination after SP has risen by 2, so POP SP
ends with the popped word (the spec's decision D23); the stack read is checked first, then a memory destination (D16). -/
def Obligations.PopLoadsFromStackTop : Prop :=
  (∀ (r : Reg16) (s : State),
    encode (.popR16 r) = [0x58 + r.num.setWidth 8] ∧
    (s.regs.sp.toNat + 1 < s.memSize → exec (.popR16 r) s = .next { s with
      regs := ({ s.regs with sp := s.regs.sp + 2 } : Regs).set r (s.mem.readWord s.regs.sp.toNat)
      pc := s.pc + 1 }) ∧
    (s.memSize ≤ s.regs.sp.toNat + 1 →
      exec (.popR16 r) s = .next { s with status := .faulted (.memoryFault s.regs.sp) })) ∧
  (∀ (rm : RM16) (s : State),
    encode (.popRm16 rm) = 0x8F :: rm.bytes 0 ∧
    (∀ r, rm = .reg r → s.regs.sp.toNat + 1 < s.memSize → exec (.popRm16 rm) s = .next { s with
      regs := ({ s.regs with sp := s.regs.sp + 2 } : Regs).set r (s.mem.readWord s.regs.sp.toNat)
      pc := s.pc + 2 }) ∧
    (∀ m, rm = .mem m → s.regs.sp.toNat + 1 < s.memSize → (effAddr s.regs m).toNat + 1 < s.memSize →
      exec (.popRm16 rm) s = .next { s with
        regs := { s.regs with sp := s.regs.sp + 2 }
        mem := s.mem.writeWord (effAddr s.regs m).toNat (s.mem.readWord s.regs.sp.toNat)
        pc := s.pc + BitVec.ofNat 16 (2 + m.dispBytes) }) ∧
    (s.memSize ≤ s.regs.sp.toNat + 1 →
      exec (.popRm16 rm) s = .next { s with status := .faulted (.memoryFault s.regs.sp) }) ∧
    (∀ m, rm = .mem m → s.regs.sp.toNat + 1 < s.memSize → s.memSize ≤ (effAddr s.regs m).toNat + 1 →
      exec (.popRm16 rm) s = .next { s with status := .faulted (.memoryFault (effAddr s.regs m)) }))

/-! ## Control flow -/

/-- JO, JNO, JB, JNB, JE, JNE, JBE, JNBE (43_control_flow.md R192 to R199): each is taken exactly on its condition, and then
to next plus the extended offset, else to next; nothing but pc changes. -/
def Obligations.UnsignedConditionalJumps : Prop :=
  JumpsWhen .jo 0x70 (fun f => f.overflow = true) ∧
  JumpsWhen .jno 0x71 (fun f => f.overflow = false) ∧
  JumpsWhen .jb 0x72 (fun f => f.carry = true) ∧
  JumpsWhen .jnb 0x73 (fun f => f.carry = false) ∧
  JumpsWhen .je 0x74 (fun f => f.zero = true) ∧
  JumpsWhen .jne 0x75 (fun f => f.zero = false) ∧
  JumpsWhen .jbe 0x76 (fun f => f.carry = true ∨ f.zero = true) ∧
  JumpsWhen .jnbe 0x77 (fun f => f.carry = false ∧ f.zero = false)

/-- JS, JNS, JP, JNP, JL, JNL, JLE, JNLE (43_control_flow.md R200 to R207), likewise. -/
def Obligations.SignedConditionalJumps : Prop :=
  JumpsWhen .js 0x78 (fun f => f.sign = true) ∧
  JumpsWhen .jns 0x79 (fun f => f.sign = false) ∧
  JumpsWhen .jp 0x7A (fun f => f.parity = true) ∧
  JumpsWhen .jnp 0x7B (fun f => f.parity = false) ∧
  JumpsWhen .jl 0x7C (fun f => f.sign ≠ f.overflow) ∧
  JumpsWhen .jnl 0x7D (fun f => f.sign = f.overflow) ∧
  JumpsWhen .jle 0x7E (fun f => f.zero = true ∨ f.sign ≠ f.overflow) ∧
  JumpsWhen .jnle 0x7F (fun f => f.zero = false ∧ f.sign = f.overflow)

/-- After CMP, in each of its nine forms with the operands in range, the conditional jumps compare the two operands' values,
unsigned and signed (41_arithmetic.md R156, 43_control_flow.md R194 to R199, R204 to R207; the flags are the spec's decision
D24). -/
def Obligations.JumpsAfterCompareCompareTheValues : Prop :=
  NineFormsEach cmpForms ByteCompare WordCompare

/-- JMP, all three forms (43_control_flow.md R191): pc takes the target and nothing else changes; a memory operand out of
range faults (the spec's decision D16). -/
def Obligations.JmpSetsPc : Prop :=
  (∀ (d : Byte) (s : State), encode (.jmpRel8 d) = [0xEB, d] ∧
    exec (.jmpRel8 d) s = .next { s with pc := s.pc + 2 + d.signExtend 16 }) ∧
  (∀ (d : Word) (s : State), encode (.jmpRel16 d) = [0xE9, lowByte d, highByte d] ∧
    exec (.jmpRel16 d) s = .next { s with pc := s.pc + 3 + d }) ∧
  (∀ (rm : RM16) (s : State), encode (.jmpRm16 rm) = 0xFF :: rm.bytes 4 ∧
    (inRange16 s rm → exec (.jmpRm16 rm) s = .next { s with pc := value16 s rm }) ∧
    (∀ m, rm = .mem m → s.memSize ≤ (effAddr s.regs m).toNat + 1 →
      exec (.jmpRm16 rm) s = .next { s with status := .faulted (.memoryFault (effAddr s.regs m)) }))

/-- CALL, both forms (43_control_flow.md R208): the address of the next instruction is pushed and pc takes the target, which
an indirect form reads with the old SP; the operand read is checked before the stack slot (the spec's decision D16). -/
def Obligations.CallPushesReturnAddress : Prop :=
  (∀ (d : Word) (s : State), encode (.callRel16 d) = [0xE8, lowByte d, highByte d] ∧
    ((s.regs.sp - 2).toNat + 1 < s.memSize → exec (.callRel16 d) s = .next { s with
      mem := s.mem.writeWord (s.regs.sp - 2).toNat (s.pc + 3)
      regs := { s.regs with sp := s.regs.sp - 2 }
      pc := s.pc + 3 + d }) ∧
    (s.memSize ≤ (s.regs.sp - 2).toNat + 1 →
      exec (.callRel16 d) s = .next { s with status := .faulted (.memoryFault (s.regs.sp - 2)) })) ∧
  (∀ (rm : RM16) (s : State), encode (.callRm16 rm) = 0xFF :: rm.bytes 2 ∧
    (inRange16 s rm → (s.regs.sp - 2).toNat + 1 < s.memSize → exec (.callRm16 rm) s = .next { s with
      mem := s.mem.writeWord (s.regs.sp - 2).toNat (s.pc + BitVec.ofNat 16 (2 + rm.dispBytes))
      regs := { s.regs with sp := s.regs.sp - 2 }
      pc := value16 s rm }) ∧
    (∀ m, rm = .mem m → s.memSize ≤ (effAddr s.regs m).toNat + 1 →
      exec (.callRm16 rm) s = .next { s with status := .faulted (.memoryFault (effAddr s.regs m)) }) ∧
    (inRange16 s rm → s.memSize ≤ (s.regs.sp - 2).toNat + 1 →
      exec (.callRm16 rm) s = .next { s with status := .faulted (.memoryFault (s.regs.sp - 2)) }))

/-- RET and RET imm16 (43_control_flow.md R209): pc takes the word at SP, SP rises by 2 and by the immediate; a stack slot
out of range faults (the spec's decision D16). -/
def Obligations.RetPopsPc : Prop :=
  (∀ s : State, encode .ret = [0xC3] ∧
    (s.regs.sp.toNat + 1 < s.memSize → exec .ret s = .next { s with
      regs := { s.regs with sp := s.regs.sp + 2 }, pc := s.mem.readWord s.regs.sp.toNat }) ∧
    (s.memSize ≤ s.regs.sp.toNat + 1 → exec .ret s = .next { s with status := .faulted (.memoryFault s.regs.sp) })) ∧
  (∀ (k : Word) (s : State), encode (.retImm16 k) = [0xC2, lowByte k, highByte k] ∧
    (s.regs.sp.toNat + 1 < s.memSize → exec (.retImm16 k) s = .next { s with
      regs := { s.regs with sp := s.regs.sp + 2 + k }, pc := s.mem.readWord s.regs.sp.toNat }) ∧
    (s.memSize ≤ s.regs.sp.toNat + 1 →
      exec (.retImm16 k) s = .next { s with status := .faulted (.memoryFault s.regs.sp) }))

/-- LOOP (43_control_flow.md R210): CX falls by 1 modulo 2^16, then the jump is taken exactly when it is not 0; no flag is
read or written. -/
def Obligations.LoopCountsCxDown : Prop :=
  ∀ (d : Byte) (s : State), encode (.loop d) = [0xE2, d] ∧ (Instr.loop d).len = 2 ∧
    (s.regs.cx ≠ 1 → exec (.loop d) s = .next { s with
      regs := { s.regs with cx := s.regs.cx - 1 }, pc := s.pc + 2 + d.signExtend 16 }) ∧
    (s.regs.cx = 1 → exec (.loop d) s = .next { s with regs := { s.regs with cx := 0 }, pc := s.pc + 2 })

/-! ## HLT, NOP, the encodings rejected by name -/

/-- HLT (44_halt_nop_rejected.md R230): Status becomes Halted(HltExecuted) and pc moves past the byte (the spec's decision
D17); registers, flags and memory are unchanged. -/
def Obligations.HltHaltsTheMachine : Prop :=
  ∀ s : State, encode .hlt = [0xF4] ∧
    exec .hlt s = .next { s with status := .halted .hltExecuted, pc := s.pc + 1 }

/-- NOP (44_halt_nop_rejected.md R231): only pc moves. -/
def Obligations.NopOnlyAdvancesPc : Prop :=
  ∀ s : State, encode .nop = [0x90] ∧ Instr.nop.len = 1 ∧ exec .nop s = .next { s with pc := s.pc + 1 }

/-- IN, OUT, LOCK and WAIT raise UnsupportedInstruction with their opcode byte, changing nothing but Status
(44_halt_nop_rejected.md R232 to R235). That they decode to a form of their own, from the opcode byte alone, and that its
meaning raises the fault, is the model's choice (log 7): the spec has the decoder raise it. -/
def Obligations.RejectedByNameRaise : Prop :=
  RejectedAs .inAlImm8 0xE4 ∧ RejectedAs .inAxImm8 0xE5 ∧ RejectedAs .inAlDx 0xEC ∧ RejectedAs .inAxDx 0xED ∧
  RejectedAs .outImm8Al 0xE6 ∧ RejectedAs .outImm8Ax 0xE7 ∧ RejectedAs .outDxAl 0xEE ∧ RejectedAs .outDxAx 0xEF ∧
  RejectedAs .lock 0xF0 ∧ RejectedAs .wait 0x9B

/-! ## Frames -/

/-- A register half that is not in an instruction's table (`instrHalves`: its destination, and SP, AX, DX or CX where its
rule names them) is unchanged. -/
def Obligations.RegisterFrame : Prop :=
  ∀ (i : Instr) (s t : State), exec i s = .next t → ∀ h, h ∉ instrHalves i → t.regs.half h = s.regs.half h

/-- A flag that is not in an instruction's table (`instrFlags`, the table of 10_state.md R29) is unchanged. Where that keeps
AF after AND, OR, XOR and NOT, SF, ZF, PF and AF after MUL, and all six after DIV and IDIV, it is the spec's own decisions
D18, D19 and D20 (R32; log 10). -/
def Obligations.FlagFrame : Prop :=
  ∀ (i : Instr) (s t : State), exec i s = .next t → ∀ n, n ∉ instrFlags i → t.flags.get n = s.flags.get n

/-- A byte of memory outside the cells an instruction stores to reads as before; for a form that stores nothing, every byte
does. The cells (`instrCells`) are those of 20_memory.md R51, R54, R68: the destination's effective address at the form's
width, or the word at the lowered SP; "Only the addressed cells change" (R54). -/
def Obligations.MemoryFrame : Prop :=
  ∀ (i : Instr) (s t : State), exec i s = .next t → ∀ a, a ∉ instrCells s i → t.mem.read a = s.mem.read a

/-- TF, IF and DF have no effect on execution and are never written (10_state.md R36): two sessions that differ in nothing
else take the same step and keep their own three flags. -/
def Obligations.ControlFlagsHaveNoEffect : Prop :=
  ∀ (s t : State) (tf if_ df : Bool), step s = .next t →
    t.flags.trap = s.flags.trap ∧ t.flags.interrupt = s.flags.interrupt ∧ t.flags.direction = s.flags.direction ∧
    step (s.withControlFlags tf if_ df) = .next (t.withControlFlags tf if_ df)

/-! ## The step and the run -/

/-- A step runs the decoded instruction (70_reset_and_hazards.md R297, R298): when the session is Running, pc is in the
window, the budget is not used up and the bytes the window holds from pc on decode to i, the step is the meaning of i on
the state with the step counted. -/
def Obligations.StepRunsDecodedInstruction : Prop :=
  ∀ (s : State) (i : Instr) (rest : List Byte), s.status = .running → s.inWindow = true → s.steps ≠ s.params.maxSteps →
    decode s.fetch = .ok (i, rest) → step s = exec i { s with steps := s.steps + 1 }

/-- The same from the bytes in memory: when the encoding of a well-formed i lies at pc, whole inside the image window, the
step runs i (20_memory.md R64, R65). -/
def Obligations.StepRunsTheBytesAtPc : Prop :=
  ∀ (s : State) (i : Instr), s.status = .running → s.steps ≠ s.params.maxSteps → i.wf = true →
    s.params.imageBase.toNat ≤ s.pc.toNat → s.pc.toNat + i.len ≤ s.params.imageBase.toNat + s.params.imageLen →
    (∀ k, k < i.len → (encode i)[k]? = some (s.mem.read (s.pc.toNat + k))) →
    step s = exec i { s with steps := s.steps + 1 }

/-- The loop's checks in their order (70_reset_and_hazards.md R298, 60_exceptions.md R259; the order is the spec's decision
D13): a terminal session is left alone; else pc outside the window, on either side (D11), halts with EndOfProgram; else a
used budget faults with StepLimitExceeded; each writes Status only. -/
def Obligations.LoopChecksInOrder : Prop :=
  ∀ s : State,
    (s.status ≠ .running → step s = .next s) ∧
    (s.status = .running →
      ¬ (s.params.imageBase.toNat ≤ s.pc.toNat ∧ s.pc.toNat < s.params.imageBase.toNat + s.params.imageLen) →
      step s = .next { s with status := .halted .endOfProgram }) ∧
    (s.status = .running →
      s.params.imageBase.toNat ≤ s.pc.toNat → s.pc.toNat < s.params.imageBase.toNat + s.params.imageLen →
      s.steps = s.params.maxSteps → step s = .next { s with status := .faulted .stepLimitExceeded })

/-- Bytes that do not decode fault (60_exceptions.md R251): the step is counted, Status takes the reason, nothing else
changes (the spec's decisions D13, D16). -/
def Obligations.UndecodableBytesFault : Prop :=
  ∀ (s : State) (u : Unsupported), s.status = .running → s.inWindow = true → s.steps ≠ s.params.maxSteps →
    decode s.fetch = .error u →
    step s = .next { s with steps := s.steps + 1, status := .faulted (.unsupportedInstruction u) }

/-- Halted and Faulted are terminal (70_reset_and_hazards.md R300): a step changes nothing, and `run` again returns the same
status and snapshot, with registers, flags, pc, memory and steps as they were. That `run` sets the session's MAX_STEPS to its
argument even then is the model's choice (log 17). -/
def Obligations.TerminalStatesAreNeverLeft : Prop :=
  ∀ s : State, s.status.terminal = true → step s = .next s ∧
    ∀ n, ∃ t, run n s = .next t ∧ t.status = s.status ∧ t.snapshot = s.snapshot ∧
      t = { s with params := { s.params with maxSteps := n } }

/-- Status moves only as the table of 10_state.md R39 says, one step at a time (the loop's own moves are the spec's decision
D13): from Running to Running, to either halt or to a fault, by HLT only to Halted(HltExecuted); from a terminal value nowhere; and
every step answers a next state with the parameters unchanged and STEPS the same or one more. -/
def Obligations.StatusTransitions : Prop :=
  ∀ s : State, ∃ t, step s = .next t ∧ t.params = s.params ∧ (t.steps = s.steps ∨ t.steps = s.steps + 1) ∧
    (s.status ≠ .running → t.status = s.status) ∧
    (s.status = .running → t.status = .halted .hltExecuted → s.fetchDecode = .ok .hlt) ∧
    (s.status = .running → (t.status = .halted .endOfProgram ↔ s.inWindow = false)) ∧
    (s.status = .running → (t.status = .faulted .stepLimitExceeded ↔ s.inWindow = true ∧ s.steps = s.params.maxSteps))

/-- Faults are precise (60_exceptions.md R258; that they always fully abort is the spec's decision D16): a step that faults
leaves every register, flag and memory cell, SP and pc as they were; only Status changes, and STEPS counts the step unless
the fault is the budget's own (10_state.md R40, 70_reset_and_hazards.md R298; the counting is the spec's decision D13). -/
def Obligations.FaultsArePrecise : Prop :=
  ∀ (s t : State) (f : Fault), s.status = .running → step s = .next t → t.status = .faulted f →
    t = { s with status := .faulted f, steps := if f = .stepLimitExceeded then s.steps else s.steps + 1 }

/-- Which reasons an instruction's meaning can raise (60_exceptions.md R250 to R255): MemoryFault exactly when one of its own
accesses (`instrAccesses`: its memory operand, SP, the lowered SP) has a byte outside memory at that access's width, with the
address of the first such access (R252, R259); DivideByZero and DivideOverflow only DIV and IDIV;
StepLimitExceeded none. HLT alone halts. That the meanings of IN, OUT, LOCK and WAIT raise UnsupportedInstruction is the
model's choice (log 7): in R250 and R251 the decoder raises it, and no other meaning does here. -/
def Obligations.FaultReasonsAndTheirRaisers : Prop :=
  ∀ (i : Instr) (s : State), s.status = .running → ∃ t, exec i s = .next t ∧
    (∀ a, t.status = .faulted (.memoryFault a) ↔ firstOutside s i = some a) ∧
    match t.status with
    | .running => i ≠ .hlt
    | .halted h => i = .hlt ∧ h = .hltExecuted
    | .faulted (.memoryFault a) => ∃ n, (a, n) ∈ instrAccesses s i ∧ s.memSize < a.toNat + n
    | .faulted .divideByZero => ∃ rm rm', i = .divRm8 rm ∨ i = .divRm16 rm' ∨ i = .idivRm8 rm ∨ i = .idivRm16 rm'
    | .faulted .divideOverflow => ∃ rm rm', i = .divRm8 rm ∨ i = .divRm16 rm' ∨ i = .idivRm8 rm ∨ i = .idivRm16 rm'
    | .faulted (.unsupportedInstruction u) => ∃ b, u = .opcode b ∧ encode i = [b] ∧ i ∈ ([.inAlImm8, .inAxImm8, .inAlDx,
        .inAxDx, .outImm8Al, .outImm8Ax, .outDxAl, .outDxAx, .lock, .wait] : List Instr)
    | .faulted .stepLimitExceeded => False

/-- A store into the image window is seen by the very next fetch of that address (20_memory.md R66), for every instruction
that stores: when an instruction completes, a fetch at the address of any byte it stored (`instrStores`: the value its own
rule gives) begins with that byte. HLT stores nothing. -/
def Obligations.StoreIsSeenByNextFetch : Prop :=
  ∀ (i : Instr) (s t : State) (a : Word) (v : Byte), s.mem.wf → exec i s = .next t → t.status = .running →
    (a.toNat, v) ∈ instrStores s i → s.params.imageBase.toNat ≤ a.toNat → a.toNat < s.imageEnd →
    (t.setPc a).inWindow = true ∧ (t.setPc a).fetch.head? = some v

/-- The invariant of a session is kept by every step: memory canonical and inside MEM_SIZE ("no implicit growth",
20_memory.md R50), the image inside memory (00_scope.md R8), STEPS within the budget (70_reset_and_hazards.md R298). -/
def Obligations.StepKeepsInvariant : Prop :=
  ∀ s t : State, Inv s → step s = .next t → Inv t

/-- The state after reset meets the invariant, is the load of an empty image (the model's choice, log 3), and its first pass
ends Halted(EndOfProgram) with STEPS = 0 (70_reset_and_hazards.md R291; the spec's decision D15). -/
def Obligations.ResetMeetsInvariant : Prop :=
  Inv State.reset ∧ load 0xFFFF 0 1000000 [] 0 = .ok State.reset ∧
  step State.reset = .next { State.reset with status := .halted .endOfProgram } ∧ State.reset.steps = 0

/-- Load (70_reset_and_hazards.md R290, R291, R295, 10_state.md R42; the values are the spec's decisions D14, D15, D28): an
image that does not fit is ImageTooLarge; one that fits gives a fresh session that meets the invariant, registers 0, SP =
SP_INIT, pc = IMAGE_BASE, flags false, Running, STEPS 0, memory the image over zeros, whatever the session was before. That a
load is given a MAX_STEPS, and that a reload keeps the session's, is the model's choice (log 20). -/
def Obligations.LoadGivesFreshSession : Prop :=
  ∀ (memTop spInit base : Word) (n : Nat) (image : List Byte),
    (memTop.toNat + 1 < base.toNat + image.length → load memTop spInit n image base = .error .imageTooLarge) ∧
    (base.toNat + image.length ≤ memTop.toNat + 1 → ∃ s, load memTop spInit n image base = .ok s ∧ Inv s ∧
      s.regs = ⟨0, 0, 0, 0, spInit, 0, 0, 0⟩ ∧ s.pc = base ∧
      s.flags = ⟨false, false, false, false, false, false, false, false, false⟩ ∧
      s.status = .running ∧ s.steps = 0 ∧ s.memSize = memTop.toNat + 1 ∧ s.imageEnd = base.toNat + image.length ∧
      (∀ a, s.mem.read a = if a < base.toNat then 0 else (image[a - base.toNat]?).getD 0) ∧
      ∀ old : State, old.params.memTop = memTop → old.params.spInit = spInit → old.params.maxSteps = n →
        old.reload image base = .ok s)

/-- Run always terminates (70_reset_and_hazards.md R299): whatever the session, with a budget of at least the steps already
begun, `run` returns a terminal session that has begun at most MAX_STEPS steps. How many passes `run` makes is the model's
(log 17); a session still Running with steps begun, which the spec gives no second run, is covered too (log 18). -/
def Obligations.RunEndsTerminal : Prop :=
  ∀ (s : State) (n : Nat), s.steps ≤ n → ∃ t, run n s = .next t ∧ t.status.terminal = true ∧ t.steps ≤ n
end

