-- ==== Sys2Proof/Laws/Decode.lean ====
section
/-! SUPPORT. The parts of an encoding: each reader takes back what the encoder wrote, and what a reader took is what the
encoder writes. One lemma for each row format of the decoder. -/

namespace Sys2Proof

/-! ## Bit fields, register numbers, bytes -/

@[simp] theorem modField_modeByte : ∀ (a : BitVec 2) (b c : BitVec 3), modField (modeByte a b c) = a := by decide
@[simp] theorem regField_modeByte : ∀ (a : BitVec 2) (b c : BitVec 3), regField (modeByte a b c) = b := by decide
@[simp] theorem rmField_modeByte : ∀ (a : BitVec 2) (b c : BitVec 3), rmField (modeByte a b c) = c := by decide

/-- A byte is the mode byte of its fields. -/
theorem modeByte_fields : ∀ m : Byte, modeByte (modField m) (regField m) (rmField m) = m := by decide

@[simp] theorem Reg16.ofNum_num (r : Reg16) : Reg16.ofNum r.num = r := by cases r <;> rfl
@[simp] theorem Reg8.ofNum_num (r : Reg8) : Reg8.ofNum r.num = r := by cases r <;> rfl
@[simp] theorem BaseIndex.ofNum_num (b : BaseIndex) : BaseIndex.ofNum b.num = b := by cases b <;> rfl
@[simp] theorem Reg16.num_ofNum : ∀ n : BitVec 3, (Reg16.ofNum n).num = n := by decide
@[simp] theorem Reg8.num_ofNum : ∀ n : BitVec 3, (Reg8.ofNum n).num = n := by decide
@[simp] theorem BaseIndex.num_ofNum : ∀ n : BitVec 3, (BaseIndex.ofNum n).num = n := by decide

@[simp] theorem takeByte_cons (b : Byte) (rest : List Byte) : takeByte (b :: rest) = some (b, rest) := rfl

theorem joinBytes_of_parts (v : Word) : joinBytes (highByte v) (lowByte v) = v := by
  apply BitVec.eq_of_getLsbD_eq
  intro i hi
  have : (v.extractLsb' 8 8 ++ v.extractLsb' 0 8 : BitVec (8 + 8)).getLsbD i = v.getLsbD i := by
    rw [BitVec.getLsbD_append]
    by_cases h : i < 8
    · simp [h]
    · simp [h, show i - 8 < 8 by omega, show 8 + (i - 8) = i by omega]
  exact this

theorem le16_joinBytes (hi lo : Byte) : le16 (joinBytes hi lo) = [lo, hi] := by
  have h1 : lowByte (joinBytes hi lo) = lo := by
    unfold lowByte joinBytes
    ext i h
    have : (hi ++ lo : BitVec (8 + 8)).getLsbD i = lo[i] := by
      rw [BitVec.getLsbD_append]
      simp [h]
    simpa using this
  have h2 : highByte (joinBytes hi lo) = hi := by
    unfold highByte joinBytes
    ext i h
    have : (hi ++ lo : BitVec (8 + 8)).getLsbD (8 + i) = hi[i] := by
      rw [BitVec.getLsbD_append]
      simp [h]
    simpa using this
  rw [le16, h1, h2]

@[simp] theorem takeWord_le16 (v : Word) (rest : List Byte) : takeWord (le16 v ++ rest) = some (v, rest) := by
  simp [le16, takeWord, joinBytes_of_parts]

/-- What `takeByte` took. -/
theorem takeByte_some {bs : List Byte} {p : Byte × List Byte} (h : takeByte bs = some p) : bs = p.1 :: p.2 := by
  cases bs with
  | nil => simp [takeByte] at h
  | cons b rest => simp only [takeByte, Option.some.injEq] at h; subst h; rfl

/-- What `takeWord` took. -/
theorem takeWord_some {bs : List Byte} {p : Word × List Byte} (h : takeWord bs = some p) : bs = le16 p.1 ++ p.2 := by
  match bs with
  | [] => simp [takeWord] at h
  | [_] => simp [takeWord] at h
  | lo :: hi :: rest =>
    simp only [takeWord, Option.some.injEq] at h
    subst h
    simp [le16_joinBytes]

/-! ## Memory operands -/

theorem BaseIndex.num_ne_six {b : BaseIndex} (h : MemOp.wf (.noDisp b)) : b.num ≠ 6#3 := by
  cases b <;> first | decide | exact absurd h (by decide)

theorem MemOp.modBits_ne_three (m : MemOp) : m.modBits ≠ 3#2 := by cases m <;> simp [MemOp.modBits]

/-- The decoder reads back the memory operand the encoder wrote. -/
theorem takeMem_disp {m : MemOp} (h : m.wf) (rest : List Byte) :
    takeMem m.modBits m.rmBits (m.disp ++ rest) = some (m, rest) := by
  cases m with
  | noDisp b => simp [takeMem, MemOp.modBits, MemOp.rmBits, MemOp.disp, BaseIndex.num_ne_six h]
  | disp8 b d => simp [takeMem, MemOp.modBits, MemOp.rmBits, MemOp.disp]
  | disp16 b d => simp [takeMem, MemOp.modBits, MemOp.rmBits, MemOp.disp]
  | direct a => simp [takeMem, MemOp.modBits, MemOp.rmBits, MemOp.disp]

/-- The memory operand the decoder read is well formed, and the encoder writes the bytes it was read from. -/
theorem takeMem_some {mod : BitVec 2} {rm : BitVec 3} {bs : List Byte} {p : MemOp × List Byte} (hm : mod ≠ 3)
    (h : takeMem mod rm bs = some p) :
    p.1.wf ∧ p.1.modBits = mod ∧ p.1.rmBits = rm ∧ bs = p.1.disp ++ p.2 := by
  unfold takeMem at h
  split at h
  · rename_i h0
    split at h
    · rename_i h6
      obtain ⟨q, hq, rfl⟩ := Option.map_eq_some_iff.mp h
      exact ⟨rfl, h0.symm, h6.symm, takeWord_some hq⟩
    · rename_i h6
      obtain rfl := Option.some.inj h
      refine ⟨?_, h0.symm, by simp [MemOp.rmBits], rfl⟩
      have : ∀ n : BitVec 3, n ≠ 6 → MemOp.wf (.noDisp (BaseIndex.ofNum n)) = true := by decide
      exact this rm h6
  · rename_i h0
    split at h
    · rename_i h1
      obtain ⟨q, hq, rfl⟩ := Option.map_eq_some_iff.mp h
      exact ⟨rfl, h1.symm, by simp [MemOp.rmBits], by simpa [MemOp.disp] using takeByte_some hq⟩
    · rename_i h1
      obtain ⟨q, hq, rfl⟩ := Option.map_eq_some_iff.mp h
      have : ∀ n : BitVec 2, n ≠ 0 → n ≠ 1 → n ≠ 3 → 2 = n := by decide
      exact ⟨rfl, this mod h0 h1 hm, by simp [MemOp.rmBits], takeWord_some hq⟩

@[simp] theorem MemOp.disp_length (m : MemOp) : m.disp.length = m.dispBytes := by cases m <;> rfl

/-- The mode byte and displacement of an r/m8 operand, and how the decoder reads them back. -/
theorem RM8.bytes_spec {rm : RM8} (h : rm.wf) (reg : BitVec 3) :
    ∃ m tail, rm.bytes reg = m :: tail ∧ regField m = reg ∧ ∀ rest, takeRM8 m (tail ++ rest) = some (rm, rest) := by
  cases rm with
  | reg r => exact ⟨_, [], rfl, by simp, fun rest => by simp [takeRM8]⟩
  | mem x =>
    exact ⟨_, x.disp, rfl, by simp, fun rest => by
      simp [takeRM8, x.modBits_ne_three, takeMem_disp h]⟩

/-- The r/m8 operand the decoder read is well formed, and the encoder writes the bytes it was read from. -/
theorem takeRM8_some {m : Byte} {bs : List Byte} {p : RM8 × List Byte} (h : takeRM8 m bs = some p) :
    p.1.wf ∧ m :: bs = p.1.bytes (regField m) ++ p.2 := by
  unfold takeRM8 at h
  split at h
  · rename_i h3
    obtain rfl := Option.some.inj h
    refine ⟨rfl, ?_⟩
    have := modeByte_fields m
    rw [h3] at this
    simp only [RM8.bytes, Reg8.num_ofNum, this, List.cons_append, List.nil_append]
  · rename_i h3
    obtain ⟨q, hq, rfl⟩ := Option.map_eq_some_iff.mp h
    obtain ⟨hw, h1, h2, h4⟩ := takeMem_some h3 hq
    refine ⟨hw, ?_⟩
    simp [RM8.bytes, h1, h2, modeByte_fields, h4]

@[simp] theorem RM8.bytes_length (rm : RM8) (reg : BitVec 3) : (rm.bytes reg).length = 1 + rm.dispBytes := by
  cases rm with
  | reg r => rfl
  | mem m => simp [RM8.bytes, RM8.dispBytes, Nat.add_comm]

/-- The mode byte and displacement of an r/m16 operand, and how the decoder reads them back. -/
theorem RM16.bytes_spec {rm : RM16} (h : rm.wf) (reg : BitVec 3) :
    ∃ m tail, rm.bytes reg = m :: tail ∧ regField m = reg ∧ ∀ rest, takeRM16 m (tail ++ rest) = some (rm, rest) := by
  cases rm with
  | reg r => exact ⟨_, [], rfl, by simp, fun rest => by simp [takeRM16]⟩
  | mem x =>
    exact ⟨_, x.disp, rfl, by simp, fun rest => by
      simp [takeRM16, x.modBits_ne_three, takeMem_disp h]⟩

/-- The r/m16 operand the decoder read is well formed, and the encoder writes the bytes it was read from. -/
theorem takeRM16_some {m : Byte} {bs : List Byte} {p : RM16 × List Byte} (h : takeRM16 m bs = some p) :
    p.1.wf ∧ m :: bs = p.1.bytes (regField m) ++ p.2 := by
  unfold takeRM16 at h
  split at h
  · rename_i h3
    obtain rfl := Option.some.inj h
    refine ⟨rfl, ?_⟩
    have := modeByte_fields m
    rw [h3] at this
    simp only [RM16.bytes, Reg16.num_ofNum, this, List.cons_append, List.nil_append]
  · rename_i h3
    obtain ⟨q, hq, rfl⟩ := Option.map_eq_some_iff.mp h
    obtain ⟨hw, h1, h2, h4⟩ := takeMem_some h3 hq
    refine ⟨hw, ?_⟩
    simp [RM16.bytes, h1, h2, modeByte_fields, h4]

@[simp] theorem RM16.bytes_length (rm : RM16) (reg : BitVec 3) : (rm.bytes reg).length = 1 + rm.dispBytes := by
  cases rm with
  | reg r => rfl
  | mem m => simp [RM16.bytes, RM16.dispBytes, Nat.add_comm]

@[simp] theorem le16_length (v : Word) : (le16 v).length = 2 := rfl

theorem MemOp.dispBytes_le (m : MemOp) : m.dispBytes ≤ 2 := by cases m <;> simp [MemOp.dispBytes]
theorem RM8.dispBytes_le (rm : RM8) : rm.dispBytes ≤ 2 := by
  cases rm with
  | reg r => exact Nat.zero_le _
  | mem m => exact m.dispBytes_le
theorem RM16.dispBytes_le (rm : RM16) : rm.dispBytes ≤ 2 := by
  cases rm with
  | reg r => exact Nat.zero_le _
  | mem m => exact m.dispBytes_le

/-! ## Rows -/

@[simp] theorem orTruncated_some (p : Instr × List Byte) : orTruncated (some p) = .ok p := rfl

theorem orTruncated_ok {r : Option (Instr × List Byte)} {p : Instr × List Byte} (h : orTruncated r = .ok p) :
    r = some p := by
  cases r with
  | none => simp [orTruncated] at h
  | some q => simpa [orTruncated] using h

theorem decodeRow_imm8 (b0 : Byte) (mk : Byte → Instr) (v : Byte) (rest : List Byte) :
    decodeRow b0 (.imm8 mk) (v :: rest) = .ok (mk v, rest) := rfl

theorem decodeRow_imm16 (b0 : Byte) (mk : Word → Instr) (v : Word) (rest : List Byte) :
    decodeRow b0 (.imm16 mk) (le16 v ++ rest) = .ok (mk v, rest) := by
  simp [decodeRow]

theorem decodeRow_modrm8 (b0 : Byte) (mk : RM8 → Reg8 → Instr) {rm : RM8} (h : rm.wf) (r : Reg8) (rest : List Byte) :
    decodeRow b0 (.modrm8 mk) (rm.bytes r.num ++ rest) = .ok (mk rm r, rest) := by
  obtain ⟨m, tail, hb, hr, ht⟩ := RM8.bytes_spec h r.num
  simp [hb, decodeRow, ht, hr]

theorem decodeRow_ext8 (b0 : Byte) (slot : BitVec 3 → Option (RM8 → Instr)) {rm : RM8} (h : rm.wf) {k : BitVec 3}
    {mk : RM8 → Instr} (hk : slot k = some mk) (rest : List Byte) :
    decodeRow b0 (.ext8 slot) (rm.bytes k ++ rest) = .ok (mk rm, rest) := by
  obtain ⟨m, tail, hb, hr, ht⟩ := RM8.bytes_spec h k
  simp [hb, decodeRow, hr, hk, ht]

theorem decodeRow_modrm16 (b0 : Byte) (mk : RM16 → Reg16 → Instr) {rm : RM16} (h : rm.wf) (r : Reg16) (rest : List Byte) :
    decodeRow b0 (.modrm16 mk) (rm.bytes r.num ++ rest) = .ok (mk rm r, rest) := by
  obtain ⟨m, tail, hb, hr, ht⟩ := RM16.bytes_spec h r.num
  simp [hb, decodeRow, ht, hr]

theorem decodeRow_ext16 (b0 : Byte) (slot : BitVec 3 → Option (RM16 → Instr)) {rm : RM16} (h : rm.wf) {k : BitVec 3}
    {mk : RM16 → Instr} (hk : slot k = some mk) (rest : List Byte) :
    decodeRow b0 (.ext16 slot) (rm.bytes k ++ rest) = .ok (mk rm, rest) := by
  obtain ⟨m, tail, hb, hr, ht⟩ := RM16.bytes_spec h k
  simp [hb, decodeRow, hr, hk, ht]

theorem decodeRow_ext8Imm8 (b0 : Byte) (slot : BitVec 3 → Option (RM8 → Byte → Instr)) {rm : RM8} (h : rm.wf)
    {k : BitVec 3} {mk : RM8 → Byte → Instr} (hk : slot k = some mk) (v : Byte) (rest : List Byte) :
    decodeRow b0 (.ext8Imm8 slot) (rm.bytes k ++ ([v] ++ rest)) = .ok (mk rm v, rest) := by
  obtain ⟨m, tail, hb, hr, ht⟩ := RM8.bytes_spec h k
  simp [hb, decodeRow, hr, hk, ht]

theorem decodeRow_ext16Imm16 (b0 : Byte) (slot : BitVec 3 → Option (RM16 → Word → Instr)) {rm : RM16} (h : rm.wf)
    {k : BitVec 3} {mk : RM16 → Word → Instr} (hk : slot k = some mk) (v : Word) (rest : List Byte) :
    decodeRow b0 (.ext16Imm16 slot) (rm.bytes k ++ (le16 v ++ rest)) = .ok (mk rm v, rest) := by
  obtain ⟨m, tail, hb, hr, ht⟩ := RM16.bytes_spec h k
  simp [hb, decodeRow, hr, hk, ht]

theorem decodeRow_ext16Imm8 (b0 : Byte) (slot : BitVec 3 → Option (RM16 → Byte → Instr)) {rm : RM16} (h : rm.wf)
    {k : BitVec 3} {mk : RM16 → Byte → Instr} (hk : slot k = some mk) (v : Byte) (rest : List Byte) :
    decodeRow b0 (.ext16Imm8 slot) (rm.bytes k ++ ([v] ++ rest)) = .ok (mk rm v, rest) := by
  obtain ⟨m, tail, hb, hr, ht⟩ := RM16.bytes_spec h k
  simp [hb, decodeRow, hr, hk, ht]

end Sys2Proof
end

