-- ==== Sys2Proof/Laws/State.lean ====
section
/-! SUPPORT. One lemma per field of State per update, true by rfl, so that no proof unfolds a record update. -/

namespace Sys2Proof.Machine

@[simp] theorem State.setReg_regs (s : State) (r : Reg16) (v : Word) : (s.setReg r v).regs = s.regs.set r v := rfl
@[simp] theorem State.setReg_pc (s : State) (r : Reg16) (v : Word) : (s.setReg r v).pc = s.pc := rfl
@[simp] theorem State.setReg_flags (s : State) (r : Reg16) (v : Word) : (s.setReg r v).flags = s.flags := rfl
@[simp] theorem State.setReg_mem (s : State) (r : Reg16) (v : Word) : (s.setReg r v).mem = s.mem := rfl
@[simp] theorem State.setReg_status (s : State) (r : Reg16) (v : Word) : (s.setReg r v).status = s.status := rfl
@[simp] theorem State.setReg_steps (s : State) (r : Reg16) (v : Word) : (s.setReg r v).steps = s.steps := rfl
@[simp] theorem State.setReg_params (s : State) (r : Reg16) (v : Word) : (s.setReg r v).params = s.params := rfl

@[simp] theorem State.setReg8_regs (s : State) (r : Reg8) (v : Byte) : (s.setReg8 r v).regs = s.regs.set8 r v := rfl
@[simp] theorem State.setReg8_pc (s : State) (r : Reg8) (v : Byte) : (s.setReg8 r v).pc = s.pc := rfl
@[simp] theorem State.setReg8_flags (s : State) (r : Reg8) (v : Byte) : (s.setReg8 r v).flags = s.flags := rfl
@[simp] theorem State.setReg8_mem (s : State) (r : Reg8) (v : Byte) : (s.setReg8 r v).mem = s.mem := rfl
@[simp] theorem State.setReg8_status (s : State) (r : Reg8) (v : Byte) : (s.setReg8 r v).status = s.status := rfl
@[simp] theorem State.setReg8_steps (s : State) (r : Reg8) (v : Byte) : (s.setReg8 r v).steps = s.steps := rfl
@[simp] theorem State.setReg8_params (s : State) (r : Reg8) (v : Byte) : (s.setReg8 r v).params = s.params := rfl

@[simp] theorem State.setFlags_regs (s : State) (f : Flags) : (s.setFlags f).regs = s.regs := rfl
@[simp] theorem State.setFlags_pc (s : State) (f : Flags) : (s.setFlags f).pc = s.pc := rfl
@[simp] theorem State.setFlags_flags (s : State) (f : Flags) : (s.setFlags f).flags = f := rfl
@[simp] theorem State.setFlags_mem (s : State) (f : Flags) : (s.setFlags f).mem = s.mem := rfl
@[simp] theorem State.setFlags_status (s : State) (f : Flags) : (s.setFlags f).status = s.status := rfl
@[simp] theorem State.setFlags_steps (s : State) (f : Flags) : (s.setFlags f).steps = s.steps := rfl
@[simp] theorem State.setFlags_params (s : State) (f : Flags) : (s.setFlags f).params = s.params := rfl

@[simp] theorem State.setPc_regs (s : State) (t : Word) : (s.setPc t).regs = s.regs := rfl
@[simp] theorem State.setPc_pc (s : State) (t : Word) : (s.setPc t).pc = t := rfl
@[simp] theorem State.setPc_flags (s : State) (t : Word) : (s.setPc t).flags = s.flags := rfl
@[simp] theorem State.setPc_mem (s : State) (t : Word) : (s.setPc t).mem = s.mem := rfl
@[simp] theorem State.setPc_status (s : State) (t : Word) : (s.setPc t).status = s.status := rfl
@[simp] theorem State.setPc_steps (s : State) (t : Word) : (s.setPc t).steps = s.steps := rfl
@[simp] theorem State.setPc_params (s : State) (t : Word) : (s.setPc t).params = s.params := rfl

@[simp] theorem State.advance_regs (s : State) (n : Nat) : (s.advance n).regs = s.regs := rfl
@[simp] theorem State.advance_pc (s : State) (n : Nat) : (s.advance n).pc = s.pc + BitVec.ofNat 16 n := rfl
@[simp] theorem State.advance_flags (s : State) (n : Nat) : (s.advance n).flags = s.flags := rfl
@[simp] theorem State.advance_mem (s : State) (n : Nat) : (s.advance n).mem = s.mem := rfl
@[simp] theorem State.advance_status (s : State) (n : Nat) : (s.advance n).status = s.status := rfl
@[simp] theorem State.advance_steps (s : State) (n : Nat) : (s.advance n).steps = s.steps := rfl
@[simp] theorem State.advance_params (s : State) (n : Nat) : (s.advance n).params = s.params := rfl

@[simp] theorem State.countStep_regs (s : State) : (s.countStep).regs = s.regs := rfl
@[simp] theorem State.countStep_pc (s : State) : (s.countStep).pc = s.pc := rfl
@[simp] theorem State.countStep_flags (s : State) : (s.countStep).flags = s.flags := rfl
@[simp] theorem State.countStep_mem (s : State) : (s.countStep).mem = s.mem := rfl
@[simp] theorem State.countStep_status (s : State) : (s.countStep).status = s.status := rfl
@[simp] theorem State.countStep_steps (s : State) : (s.countStep).steps = s.steps + 1 := rfl
@[simp] theorem State.countStep_params (s : State) : (s.countStep).params = s.params := rfl

@[simp] theorem State.endOfProgram_regs (s : State) : (s.endOfProgram).regs = s.regs := rfl
@[simp] theorem State.endOfProgram_pc (s : State) : (s.endOfProgram).pc = s.pc := rfl
@[simp] theorem State.endOfProgram_flags (s : State) : (s.endOfProgram).flags = s.flags := rfl
@[simp] theorem State.endOfProgram_mem (s : State) : (s.endOfProgram).mem = s.mem := rfl
@[simp] theorem State.endOfProgram_status (s : State) : (s.endOfProgram).status = .halted .endOfProgram := rfl
@[simp] theorem State.endOfProgram_steps (s : State) : (s.endOfProgram).steps = s.steps := rfl
@[simp] theorem State.endOfProgram_params (s : State) : (s.endOfProgram).params = s.params := rfl

@[simp] theorem pushed_regs (s : State) (v : Word) : (pushed s v).regs = s.regs.set .sp s.loweredSp := rfl
@[simp] theorem pushed_pc (s : State) (v : Word) : (pushed s v).pc = s.pc := rfl
@[simp] theorem pushed_flags (s : State) (v : Word) : (pushed s v).flags = s.flags := rfl
@[simp] theorem pushed_mem (s : State) (v : Word) : (pushed s v).mem = s.mem.writeWord s.loweredSp.toNat v := rfl
@[simp] theorem pushed_status (s : State) (v : Word) : (pushed s v).status = s.status := rfl
@[simp] theorem pushed_steps (s : State) (v : Word) : (pushed s v).steps = s.steps := rfl
@[simp] theorem pushed_params (s : State) (v : Word) : (pushed s v).params = s.params := rfl

@[simp] theorem State.setReg_memSize (s : State) (r : Reg16) (v : Word) : (s.setReg r v).memSize = s.memSize := rfl
@[simp] theorem State.setReg_imageEnd (s : State) (r : Reg16) (v : Word) : (s.setReg r v).imageEnd = s.imageEnd := rfl
@[simp] theorem State.setReg8_memSize (s : State) (r : Reg8) (v : Byte) : (s.setReg8 r v).memSize = s.memSize := rfl
@[simp] theorem State.setReg8_imageEnd (s : State) (r : Reg8) (v : Byte) : (s.setReg8 r v).imageEnd = s.imageEnd := rfl
@[simp] theorem State.setFlags_memSize (s : State) (f : Flags) : (s.setFlags f).memSize = s.memSize := rfl
@[simp] theorem State.setFlags_imageEnd (s : State) (f : Flags) : (s.setFlags f).imageEnd = s.imageEnd := rfl
@[simp] theorem State.setPc_memSize (s : State) (t : Word) : (s.setPc t).memSize = s.memSize := rfl
@[simp] theorem State.setPc_imageEnd (s : State) (t : Word) : (s.setPc t).imageEnd = s.imageEnd := rfl
@[simp] theorem State.advance_memSize (s : State) (n : Nat) : (s.advance n).memSize = s.memSize := rfl
@[simp] theorem State.advance_imageEnd (s : State) (n : Nat) : (s.advance n).imageEnd = s.imageEnd := rfl
@[simp] theorem State.countStep_memSize (s : State) : s.countStep.memSize = s.memSize := rfl
@[simp] theorem State.countStep_imageEnd (s : State) : s.countStep.imageEnd = s.imageEnd := rfl
@[simp] theorem pushed_memSize (s : State) (v : Word) : (pushed s v).memSize = s.memSize := rfl
@[simp] theorem pushed_imageEnd (s : State) (v : Word) : (pushed s v).imageEnd = s.imageEnd := rfl

/-! ## Writing an operand changes registers or memory only -/

@[simp] theorem put8_pc (s : State) (d : RM8) (v : Byte) : (put8 s d v).pc = s.pc := by cases d <;> rfl
@[simp] theorem put8_flags (s : State) (d : RM8) (v : Byte) : (put8 s d v).flags = s.flags := by cases d <;> rfl
@[simp] theorem put8_status (s : State) (d : RM8) (v : Byte) : (put8 s d v).status = s.status := by cases d <;> rfl
@[simp] theorem put8_steps (s : State) (d : RM8) (v : Byte) : (put8 s d v).steps = s.steps := by cases d <;> rfl
@[simp] theorem put8_params (s : State) (d : RM8) (v : Byte) : (put8 s d v).params = s.params := by cases d <;> rfl
@[simp] theorem put8_memSize (s : State) (d : RM8) (v : Byte) : (put8 s d v).memSize = s.memSize := by cases d <;> rfl
@[simp] theorem put8_imageEnd (s : State) (d : RM8) (v : Byte) : (put8 s d v).imageEnd = s.imageEnd := by cases d <;> rfl
@[simp] theorem put8_reg (s : State) (r : Reg8) (v : Byte) : put8 s (.reg r) v = s.setReg8 r v := rfl
@[simp] theorem put8_mem_regs (s : State) (m : MemOp) (v : Byte) : (put8 s (.mem m) v).regs = s.regs := rfl
@[simp] theorem put8_mem_mem (s : State) (m : MemOp) (v : Byte) :
    (put8 s (.mem m) v).mem = s.mem.write (effAddr s.regs m).toNat v := rfl

@[simp] theorem put16_pc (s : State) (d : RM16) (v : Word) : (put16 s d v).pc = s.pc := by cases d <;> rfl
@[simp] theorem put16_flags (s : State) (d : RM16) (v : Word) : (put16 s d v).flags = s.flags := by cases d <;> rfl
@[simp] theorem put16_status (s : State) (d : RM16) (v : Word) : (put16 s d v).status = s.status := by cases d <;> rfl
@[simp] theorem put16_steps (s : State) (d : RM16) (v : Word) : (put16 s d v).steps = s.steps := by cases d <;> rfl
@[simp] theorem put16_params (s : State) (d : RM16) (v : Word) : (put16 s d v).params = s.params := by cases d <;> rfl
@[simp] theorem put16_memSize (s : State) (d : RM16) (v : Word) : (put16 s d v).memSize = s.memSize := by cases d <;> rfl
@[simp] theorem put16_imageEnd (s : State) (d : RM16) (v : Word) : (put16 s d v).imageEnd = s.imageEnd := by cases d <;> rfl
@[simp] theorem put16_reg (s : State) (r : Reg16) (v : Word) : put16 s (.reg r) v = s.setReg r v := rfl
@[simp] theorem put16_mem_regs (s : State) (m : MemOp) (v : Word) : (put16 s (.mem m) v).regs = s.regs := rfl
@[simp] theorem put16_mem_mem (s : State) (m : MemOp) (v : Word) :
    (put16 s (.mem m) v).mem = s.mem.writeWord (effAddr s.regs m).toNat v := rfl

/-! ## Registers -/

/-- Reading a register after writing one. -/
theorem Regs.get_set (g : Regs) (r q : Reg16) (v : Word) : (g.set r v).get q = if q = r then v else g.get q := by
  cases r <;> cases q <;> rfl

@[simp] theorem Regs.get_set_self (g : Regs) (r : Reg16) (v : Word) : (g.set r v).get r = v := by cases r <;> rfl

theorem Regs.get_set_of_ne (g : Regs) {r q : Reg16} (v : Word) (h : q ≠ r) : (g.set r v).get q = g.get q := by
  simp [Regs.get_set, h]

@[simp] theorem lowByte_joinBytes (hi lo : Byte) : lowByte (joinBytes hi lo) = lo := by
  unfold lowByte joinBytes
  ext i hi'
  have : (hi ++ lo : BitVec (8 + 8)).getLsbD i = lo[i] := by
    rw [BitVec.getLsbD_append]
    simp [hi']
  simpa using this

@[simp] theorem highByte_joinBytes (hi lo : Byte) : highByte (joinBytes hi lo) = hi := by
  unfold highByte joinBytes
  ext i hi'
  have : (hi ++ lo : BitVec (8 + 8)).getLsbD (8 + i) = hi[i] := by
    rw [BitVec.getLsbD_append]
    simp [hi']
  simpa using this

@[simp] theorem joinBytes_high_low (v : Word) : joinBytes (highByte v) (lowByte v) = v := by
  unfold highByte lowByte joinBytes
  apply BitVec.eq_of_getLsbD_eq
  intro i hi
  have : (v.extractLsb' 8 8 ++ v.extractLsb' 0 8 : BitVec (8 + 8)).getLsbD i = v.getLsbD i := by
    rw [BitVec.getLsbD_append]
    by_cases h : i < 8
    · simp [h]
    · simp [h, show i - 8 < 8 by omega, show 8 + (i - 8) = i by omega]
  exact this

/-- What the halves of the registers are after a 16-bit write. -/
theorem Regs.half_set (g : Regs) (r : Reg16) (v : Word) (h : RegHalf) :
    (g.set r v).half h = if h.1 = r then (if h.2 then highByte v else lowByte v) else g.half h := by
  unfold Regs.half
  by_cases hr : h.1 = r <;> simp [Regs.get_set, hr]

/-- What the halves of the registers are after a byte write: only the one half changes (10_state.md R23). -/
theorem Regs.half_set8 (g : Regs) (r : Reg8) (v : Byte) (h : RegHalf) :
    (g.set8 r v).half h = if h = (wholeOf r, isHigh r) then v else g.half h := by
  obtain ⟨q, b⟩ := h
  unfold Regs.set8
  rw [Regs.half_set]
  by_cases hq : q = wholeOf r
  · subst hq
    cases hb : isHigh r <;> cases b <;> simp [Regs.half]
  · simp [hq]

/-- A byte register is the half it names. -/
theorem Regs.get8_eq_half (g : Regs) (r : Reg8) : g.get8 r = g.half (wholeOf r, isHigh r) := rfl

end Sys2Proof.Machine
end

