-- ==== Sys2Proof/Laws/Memory.lean ====
section
/-! SUPPORT. Memory: what a write does to every byte, and that every memory operation keeps the canonical form and the
bounds. -/

namespace Sys2Proof.Machine

/-- A write leaves every other address alone; no premise on the memory is needed. -/
theorem Memory.read_write_of_ne (m : Memory) {a b : Nat} (v : Byte) (h : b ≠ a) : (m.write a v).read b = m.read b := by
  induction m with
  | nil => by_cases hv : v = Config.unlistedByte <;> simp [Memory.write, Memory.read, hv, h]
  | cons c rest ih =>
    by_cases h1 : a < c.1
    · by_cases hv : v = Config.unlistedByte <;> simp [Memory.write, Memory.read, h1, hv, h]
    · by_cases h2 : a = c.1
      · have hb : b ≠ c.1 := h2 ▸ h
        by_cases hv : v = Config.unlistedByte <;> simp [Memory.write, Memory.read, ← h2, hv, h]
      · simp [Memory.write, Memory.read, h1, h2, ih]

/-- An address below every listed one reads as the unlisted byte. -/
theorem Memory.read_of_lt_all (m : Memory) {a : Nat} (h : ∀ c ∈ m, a < c.1) : m.read a = Config.unlistedByte := by
  induction m with
  | nil => rfl
  | cons c rest ih =>
    have h1 : a ≠ c.1 := Nat.ne_of_lt (h c (by simp))
    simp [Memory.read, h1, ih fun d hd => h d (by simp [hd])]

/-- A read after a write to the same address gives the value written. -/
theorem Memory.read_write_self {m : Memory} (hm : m.wf) (a : Nat) (v : Byte) : (m.write a v).read a = v := by
  obtain ⟨hp, -⟩ := hm
  induction m with
  | nil => by_cases hv : v = Config.unlistedByte <;> simp [Memory.write, Memory.read, hv]
  | cons c rest ih =>
    rw [List.pairwise_cons] at hp
    by_cases h1 : a < c.1
    · have h2 : a ≠ c.1 := Nat.ne_of_lt h1
      by_cases hv : v = Config.unlistedByte
      · have := Memory.read_of_lt_all rest (a := a) fun d hd => Nat.lt_trans h1 (hp.1 d hd)
        simp [Memory.write, Memory.read, h1, h2, hv, this]
      · simp [Memory.write, Memory.read, h1, hv]
    · by_cases h2 : a = c.1
      · by_cases hv : v = Config.unlistedByte
        · have := Memory.read_of_lt_all rest (a := a) fun d hd => h2 ▸ hp.1 d hd
          simp [Memory.write, ← h2, hv, this]
        · simp [Memory.write, Memory.read, ← h2, hv]
      · simp [Memory.write, Memory.read, h1, h2, ih hp.2]

/-- The cells after a write: the new cell, or a cell of before. -/
theorem Memory.mem_write (m : Memory) (a : Nat) (v : Byte) {c : Host.Cell} (h : c ∈ m.write a v) :
    c = (a, v) ∧ v ≠ Config.unlistedByte ∨ c ∈ m := by
  induction m with
  | nil => by_cases hv : v = Config.unlistedByte <;> simp_all [Memory.write]
  | cons d rest ih =>
    by_cases h1 : a < d.1
    · by_cases hv : v = Config.unlistedByte <;> simp_all [Memory.write]
    · by_cases h2 : a = d.1
      · by_cases hv : v = Config.unlistedByte
        · rw [Memory.write, if_neg h1, if_pos h2, if_pos hv] at h
          exact .inr (List.mem_cons_of_mem _ h)
        · rw [Memory.write, if_neg h1, if_pos h2, if_neg hv] at h
          rcases List.mem_cons.mp h with h | h
          · exact .inl ⟨h, hv⟩
          · exact .inr (List.mem_cons_of_mem _ h)
      · rw [Memory.write, if_neg h1, if_neg h2] at h
        rcases List.mem_cons.mp h with h | h
        · exact .inr (by simp [h])
        · rcases ih h with h | h
          · exact .inl h
          · exact .inr (List.mem_cons_of_mem _ h)

/-- A write keeps the canonical form. -/
theorem Memory.write_wf {m : Memory} (hm : m.wf) (a : Nat) (v : Byte) : (m.write a v).wf := by
  refine ⟨?_, fun c hc => ?_⟩
  · obtain ⟨hp, -⟩ := hm
    induction m with
    | nil => by_cases hv : v = Config.unlistedByte <;> simp [Memory.write, hv]
    | cons d rest ih =>
      have hp' := List.pairwise_cons.mp hp
      by_cases h1 : a < d.1
      · by_cases hv : v = Config.unlistedByte
        · simpa [Memory.write, h1, hv] using hp
        · rw [Memory.write, if_pos h1, if_neg hv]
          refine List.pairwise_cons.mpr ⟨fun c hc => ?_, hp⟩
          rcases List.mem_cons.mp hc with rfl | hc
          · exact h1
          · exact Nat.lt_trans h1 (hp'.1 c hc)
      · by_cases h2 : a = d.1
        · by_cases hv : v = Config.unlistedByte
          · rw [Memory.write, if_neg h1, if_pos h2, if_pos hv]
            exact hp'.2
          · rw [Memory.write, if_neg h1, if_pos h2, if_neg hv]
            exact List.pairwise_cons.mpr ⟨fun c hc => h2 ▸ hp'.1 c hc, hp'.2⟩
        · rw [Memory.write, if_neg h1, if_neg h2]
          refine List.pairwise_cons.mpr ⟨fun c hc => ?_, ih hp'.2⟩
          rcases Memory.mem_write rest a v hc with ⟨rfl, -⟩ | hc
          · exact Nat.lt_of_le_of_ne (Nat.le_of_not_lt h1) (Ne.symm h2)
          · exact hp'.1 c hc
  · rcases Memory.mem_write m a v hc with ⟨rfl, hv⟩ | hc
    · exact hv
    · exact hm.2 c hc

/-- A write inside a bound keeps every cell inside it. -/
theorem Memory.write_inside {m : Memory} {n a : Nat} (v : Byte) (hm : ∀ c ∈ m, c.1 < n) (ha : a < n) :
    ∀ c ∈ m.write a v, c.1 < n := by
  intro c hc
  rcases Memory.mem_write m a v hc with ⟨rfl, -⟩ | hc
  · exact ha
  · exact hm c hc

/-- A word write leaves every address but its two alone. -/
theorem Memory.read_writeWord_of_ne (m : Memory) {a b : Nat} (v : Word) (h1 : b ≠ a) (h2 : b ≠ a + 1) :
    (m.writeWord a v).read b = m.read b := by
  rw [Memory.writeWord, Memory.read_write_of_ne _ _ h2, Memory.read_write_of_ne _ _ h1]

/-- A word write keeps the canonical form. -/
theorem Memory.writeWord_wf {m : Memory} (hm : m.wf) (a : Nat) (v : Word) : (m.writeWord a v).wf :=
  Memory.write_wf (Memory.write_wf hm _ _) _ _

/-- A word write inside a bound keeps every cell inside it. -/
theorem Memory.writeWord_inside {m : Memory} {n a : Nat} (v : Word) (hm : ∀ c ∈ m, c.1 < n) (ha : a + 1 < n) :
    ∀ c ∈ m.writeWord a v, c.1 < n :=
  Memory.write_inside _ (Memory.write_inside _ hm (Nat.lt_of_succ_lt ha)) ha

/-- The low byte of a word after it is written. -/
theorem Memory.read_writeWord_low {m : Memory} (hm : m.wf) (a : Nat) (v : Word) :
    (m.writeWord a v).read a = lowByte v := by
  rw [Memory.writeWord, Memory.read_write_of_ne _ _ (Nat.ne_of_lt (Nat.lt_succ_self a)), Memory.read_write_self hm]

/-- The high byte of a word after it is written. -/
theorem Memory.read_writeWord_high {m : Memory} (hm : m.wf) (a : Nat) (v : Word) :
    (m.writeWord a v).read (a + 1) = highByte v :=
  Memory.read_write_self (Memory.write_wf hm _ _) _ _

/-- A run of byte writes keeps the canonical form. -/
theorem Memory.writeBytes_wf {m : Memory} (hm : m.wf) (a : Nat) (bs : List Byte) : (m.writeBytes a bs).wf := by
  induction bs generalizing m a with
  | nil => exact hm
  | cons b rest ih => exact ih (Memory.write_wf hm a b) (a + 1)

/-- A run of byte writes inside a bound keeps every cell inside it. -/
theorem Memory.writeBytes_inside {m : Memory} {n a : Nat} (bs : List Byte) (hm : ∀ c ∈ m, c.1 < n)
    (ha : a + bs.length ≤ n) : ∀ c ∈ m.writeBytes a bs, c.1 < n := by
  induction bs generalizing m a with
  | nil => exact hm
  | cons b rest ih =>
    simp only [List.length_cons] at ha
    exact ih (Memory.write_inside b hm (by omega)) (by omega)

/-- A run of byte writes leaves the addresses before it alone. -/
theorem Memory.read_writeBytes_of_lt (m : Memory) {a b : Nat} (bs : List Byte) (h : b < a) :
    (m.writeBytes a bs).read b = m.read b := by
  induction bs generalizing m a with
  | nil => rfl
  | cons c rest ih =>
    rw [Memory.writeBytes, ih _ (Nat.lt_succ_of_lt h), Memory.read_write_of_ne _ _ (Nat.ne_of_lt h)]

/-- A run of byte writes leaves the addresses after it alone. -/
theorem Memory.read_writeBytes_of_ge (m : Memory) {a b : Nat} (bs : List Byte) (h : a + bs.length ≤ b) :
    (m.writeBytes a bs).read b = m.read b := by
  induction bs generalizing m a with
  | nil => rfl
  | cons c rest ih =>
    simp only [List.length_cons] at h
    rw [Memory.writeBytes, ih _ (by omega), Memory.read_write_of_ne _ _ (by omega)]

/-- The empty memory is canonical, and so is memory after reset. -/
theorem Memory.wf_nil : Memory.wf [] := ⟨List.Pairwise.nil, fun _ h => by simp at h⟩

end Sys2Proof.Machine
end

