-- ==== Sys2Proof/Laws/Shapes.lean ====
section
/-! SUPPORT. Operands: reading and writing in terms of ranges and values; and for each shared shape one lemma that says what
it answers with its operands in range, and one that says everything it can do. -/

namespace Sys2Proof.Machine

/-- Everything `commit` can do. -/
theorem commit_cases {s t : State} {r : Except Fault State} (h : commit s r = .next t) :
    (∃ f, r = .error f ∧ t = { s with status := .faulted f }) ∨ r = .ok t := by
  cases r with
  | ok u => exact .inr (by simpa [commit] using h)
  | error f => exact .inl ⟨f, rfl, by simpa [commit, raise] using h.symm⟩

/-- `commit` always answers a next state. -/
theorem commit_next (s : State) (r : Except Fault State) : ∃ t, commit s r = .next t := by
  cases r
  · exact ⟨_, rfl⟩
  · exact ⟨_, rfl⟩

@[simp] theorem commit_ok (s t : State) : commit s (.ok t) = .next t := rfl

@[simp] theorem commit_error (s : State) (f : Fault) :
    commit s (.error f) = .next { s with status := .faulted f } := rfl

@[simp] theorem except_ok_bind {α β : Type} (a : α) (k : α → Except Fault β) : (Except.ok a >>= k) = k a := rfl

@[simp] theorem except_error_bind {α β : Type} (f : Fault) (k : α → Except Fault β) :
    ((Except.error f : Except Fault α) >>= k) = .error f := rfl

@[simp] theorem except_pure {α : Type} (a : α) : (pure a : Except Fault α) = .ok a := rfl

/-! ## Operands -/

theorem readRM8_eq (s : State) (rm : RM8) (h : inRange8 s rm) : readRM8 s rm = .ok (value8 s rm) := by
  cases rm with
  | reg r => rfl
  | mem m => simp_all [readRM8, inRange8, State.memRead8, value8]

theorem readRM8_mem_error (s : State) (m : MemOp) (h : s.memSize ≤ (effAddr s.regs m).toNat) :
    readRM8 s (.mem m) = .error (.memoryFault (effAddr s.regs m)) := by
  simp [readRM8, State.memRead8, Nat.not_lt.mpr h]

theorem readRM8_cases (s : State) (rm : RM8) :
    (inRange8 s rm ∧ readRM8 s rm = .ok (value8 s rm)) ∨ ∃ f, readRM8 s rm = .error f := by
  cases rm with
  | reg r => exact .inl ⟨rfl, rfl⟩
  | mem m =>
    rcases Nat.lt_or_ge ((effAddr s.regs m).toNat) s.memSize with h | h
    · exact .inl ⟨by simpa [inRange8] using h, readRM8_eq _ _ (by simpa [inRange8] using h)⟩
    · exact .inr ⟨_, readRM8_mem_error s m h⟩

theorem readSrc8_eq (s : State) (x : Src8) (h : srcInRange8 s x) : readSrc8 s x = .ok (srcValue8 s x) := by
  cases x with
  | rm y => exact readRM8_eq s y h
  | imm v => rfl

theorem readSrc8_cases (s : State) (x : Src8) :
    (srcInRange8 s x ∧ readSrc8 s x = .ok (srcValue8 s x)) ∨ ∃ f, readSrc8 s x = .error f := by
  cases x with
  | rm y => exact readRM8_cases s y
  | imm v => exact .inl ⟨rfl, rfl⟩

theorem writeRM8_eq (s : State) (d : RM8) (v : Byte) (h : inRange8 s d) :
    writeRM8 s d v = .ok (put8 s d v) := by
  cases d with
  | reg r => rfl
  | mem m => simp_all [writeRM8, inRange8, State.memWrite8, put8]

theorem writeRM8_cases (s : State) (d : RM8) (v : Byte) :
    (inRange8 s d ∧ writeRM8 s d v = .ok (put8 s d v)) ∨ ∃ f, writeRM8 s d v = .error f := by
  cases d with
  | reg r => exact .inl ⟨rfl, rfl⟩
  | mem m =>
    rcases Nat.lt_or_ge ((effAddr s.regs m).toNat) s.memSize with h | h
    · exact .inl ⟨by simpa [inRange8] using h, writeRM8_eq _ _ _ (by simpa [inRange8] using h)⟩
    · exact .inr ⟨.memoryFault (effAddr s.regs m), by simp [writeRM8, State.memWrite8, Nat.not_lt.mpr h]⟩

theorem readRM16_eq (s : State) (rm : RM16) (h : inRange16 s rm) : readRM16 s rm = .ok (value16 s rm) := by
  cases rm with
  | reg r => rfl
  | mem m => simp_all [readRM16, inRange16, State.memRead16, value16]

theorem readRM16_mem_error (s : State) (m : MemOp) (h : s.memSize ≤ (effAddr s.regs m).toNat + 1) :
    readRM16 s (.mem m) = .error (.memoryFault (effAddr s.regs m)) := by
  simp [readRM16, State.memRead16, Nat.not_lt.mpr h]

theorem readRM16_cases (s : State) (rm : RM16) :
    (inRange16 s rm ∧ readRM16 s rm = .ok (value16 s rm)) ∨ ∃ f, readRM16 s rm = .error f := by
  cases rm with
  | reg r => exact .inl ⟨rfl, rfl⟩
  | mem m =>
    rcases Nat.lt_or_ge ((effAddr s.regs m).toNat + 1) s.memSize with h | h
    · exact .inl ⟨by simpa [inRange16] using h, readRM16_eq _ _ (by simpa [inRange16] using h)⟩
    · exact .inr ⟨_, readRM16_mem_error s m h⟩

theorem readSrc16_eq (s : State) (x : Src16) (h : srcInRange16 s x) : readSrc16 s x = .ok (srcValue16 s x) := by
  cases x with
  | rm y => exact readRM16_eq s y h
  | imm v => rfl

theorem readSrc16_cases (s : State) (x : Src16) :
    (srcInRange16 s x ∧ readSrc16 s x = .ok (srcValue16 s x)) ∨ ∃ f, readSrc16 s x = .error f := by
  cases x with
  | rm y => exact readRM16_cases s y
  | imm v => exact .inl ⟨rfl, rfl⟩

theorem writeRM16_eq (s : State) (d : RM16) (v : Word) (h : inRange16 s d) :
    writeRM16 s d v = .ok (put16 s d v) := by
  cases d with
  | reg r => rfl
  | mem m => simp_all [writeRM16, inRange16, State.memWrite16, put16]

theorem writeRM16_cases (s : State) (d : RM16) (v : Word) :
    (inRange16 s d ∧ writeRM16 s d v = .ok (put16 s d v)) ∨ ∃ f, writeRM16 s d v = .error f := by
  cases d with
  | reg r => exact .inl ⟨rfl, rfl⟩
  | mem m =>
    rcases Nat.lt_or_ge ((effAddr s.regs m).toNat + 1) s.memSize with h | h
    · exact .inl ⟨by simpa [inRange16] using h, writeRM16_eq _ _ _ (by simpa [inRange16] using h)⟩
    · exact .inr ⟨.memoryFault (effAddr s.regs m), by simp [writeRM16, State.memWrite16, Nat.not_lt.mpr h]⟩

/-! ## The stack -/

theorem push_eq (s : State) (v : Word) (h : pushInRange s) : s.push v = .ok (pushed s v) := by
  simp_all [State.push, pushInRange, State.memWrite16, pushed, State.setReg]

theorem push_cases (s : State) (v : Word) :
    (pushInRange s ∧ s.push v = .ok (pushed s v)) ∨ ∃ f, s.push v = .error f := by
  rcases Nat.lt_or_ge (s.loweredSp.toNat + 1) s.memSize with h | h
  · exact .inl ⟨by simpa [pushInRange] using h, push_eq s v (by simpa [pushInRange] using h)⟩
  · exact .inr ⟨.memoryFault s.loweredSp, by simp [State.push, State.memWrite16, Nat.not_lt.mpr h]⟩

theorem pop_eq (s : State) (h : popInRange s) :
    s.pop = .ok (s.mem.readWord s.regs.sp.toNat, s.setReg .sp (s.regs.sp + 2)) := by
  simp_all [State.pop, popInRange, State.memRead16]

theorem pop_cases (s : State) :
    (popInRange s ∧ s.pop = .ok (s.mem.readWord s.regs.sp.toNat, s.setReg .sp (s.regs.sp + 2))) ∨
      ∃ f, s.pop = .error f := by
  rcases Nat.lt_or_ge (s.regs.sp.toNat + 1) s.memSize with h | h
  · exact .inl ⟨by simpa [popInRange] using h, pop_eq s (by simpa [popInRange] using h)⟩
  · exact .inr ⟨.memoryFault s.regs.sp, by simp [State.pop, State.memRead16, Nat.not_lt.mpr h]⟩

/-! ## Shapes: what each answers with its operands in range -/

theorem binary8_completes (op : Byte → Byte → Byte) (fl : Flags → Byte → Byte → Flags) (dst : RM8) (src : Src8) (len : Nat)
    (s : State) (hd : inRange8 s dst) (hs : srcInRange8 s src) :
    binary8 op fl dst src len s = .next (((put8 s dst (op (value8 s dst) (srcValue8 s src))).setFlags
      (fl s.flags (value8 s dst) (srcValue8 s src))).advance len) := by
  simp [binary8, readRM8_eq s dst hd, readSrc8_eq s src hs, writeRM8_eq s dst _ hd]

/-- Everything `binary8` can do. -/
theorem binary8_cases (op : Byte → Byte → Byte) (fl : Flags → Byte → Byte → Flags) (dst : RM8) (src : Src8) (len : Nat)
    (s : State) :
    (∃ f, binary8 op fl dst src len s = .next { s with status := .faulted f }) ∨
      inRange8 s dst ∧ srcInRange8 s src ∧
      binary8 op fl dst src len s = .next (((put8 s dst (op (value8 s dst) (srcValue8 s src))).setFlags
        (fl s.flags (value8 s dst) (srcValue8 s src))).advance len) := by
  rcases readRM8_cases s dst with ⟨hd, -⟩ | ⟨f, hf⟩
  · rcases readSrc8_cases s src with ⟨hs, -⟩ | ⟨f, hf⟩
    · exact .inr ⟨hd, hs, binary8_completes op fl dst src len s hd hs⟩
    · exact .inl ⟨f, by simp [binary8, readRM8_eq s dst hd, hf]⟩
  · exact .inl ⟨f, by simp [binary8, hf]⟩

theorem compare8_completes (fl : Flags → Byte → Byte → Flags) (dst : RM8) (src : Src8) (len : Nat) (s : State)
    (hd : inRange8 s dst) (hs : srcInRange8 s src) :
    compare8 fl dst src len s =
      .next ((s.setFlags (fl s.flags (value8 s dst) (srcValue8 s src))).advance len) := by
  simp [compare8, readRM8_eq s dst hd, readSrc8_eq s src hs]

/-- Everything `compare8` can do. -/
theorem compare8_cases (fl : Flags → Byte → Byte → Flags) (dst : RM8) (src : Src8) (len : Nat) (s : State) :
    (∃ f, compare8 fl dst src len s = .next { s with status := .faulted f }) ∨
      inRange8 s dst ∧ srcInRange8 s src ∧ compare8 fl dst src len s =
        .next ((s.setFlags (fl s.flags (value8 s dst) (srcValue8 s src))).advance len) := by
  rcases readRM8_cases s dst with ⟨hd, -⟩ | ⟨f, hf⟩
  · rcases readSrc8_cases s src with ⟨hs, -⟩ | ⟨f, hf⟩
    · exact .inr ⟨hd, hs, compare8_completes fl dst src len s hd hs⟩
    · exact .inl ⟨f, by simp [compare8, readRM8_eq s dst hd, hf]⟩
  · exact .inl ⟨f, by simp [compare8, hf]⟩

theorem unary8_completes (op : Byte → Byte) (fl : Flags → Byte → Flags) (dst : RM8) (len : Nat) (s : State)
    (hd : inRange8 s dst) :
    unary8 op fl dst len s =
      .next (((put8 s dst (op (value8 s dst))).setFlags (fl s.flags (value8 s dst))).advance len) := by
  simp [unary8, readRM8_eq s dst hd, writeRM8_eq s dst _ hd]

/-- Everything `unary8` can do. -/
theorem unary8_cases (op : Byte → Byte) (fl : Flags → Byte → Flags) (dst : RM8) (len : Nat) (s : State) :
    (∃ f, unary8 op fl dst len s = .next { s with status := .faulted f }) ∨
      inRange8 s dst ∧ unary8 op fl dst len s =
        .next (((put8 s dst (op (value8 s dst))).setFlags (fl s.flags (value8 s dst))).advance len) := by
  rcases readRM8_cases s dst with ⟨hd, -⟩ | ⟨f, hf⟩
  · exact .inr ⟨hd, unary8_completes op fl dst len s hd⟩
  · exact .inl ⟨f, by simp [unary8, hf]⟩

theorem move8_completes (dst : RM8) (src : Src8) (len : Nat) (s : State) (hd : inRange8 s dst)
    (hs : srcInRange8 s src) : move8 dst src len s = .next ((put8 s dst (srcValue8 s src)).advance len) := by
  simp [move8, readSrc8_eq s src hs, writeRM8_eq s dst _ hd]

/-- Everything `move8` can do. -/
theorem move8_cases (dst : RM8) (src : Src8) (len : Nat) (s : State) :
    (∃ f, move8 dst src len s = .next { s with status := .faulted f }) ∨
      inRange8 s dst ∧ srcInRange8 s src ∧
      move8 dst src len s = .next ((put8 s dst (srcValue8 s src)).advance len) := by
  rcases readSrc8_cases s src with ⟨hs, -⟩ | ⟨f, hf⟩
  · rcases writeRM8_cases s dst (srcValue8 s src) with ⟨hd, -⟩ | ⟨f, hf⟩
    · exact .inr ⟨hd, hs, move8_completes dst src len s hd hs⟩
    · exact .inl ⟨f, by simp [move8, readSrc8_eq s src hs, hf]⟩
  · exact .inl ⟨f, by simp [move8, hf]⟩

theorem binary16_completes (op : Word → Word → Word) (fl : Flags → Word → Word → Flags) (dst : RM16) (src : Src16) (len : Nat)
    (s : State) (hd : inRange16 s dst) (hs : srcInRange16 s src) :
    binary16 op fl dst src len s = .next (((put16 s dst (op (value16 s dst) (srcValue16 s src))).setFlags
      (fl s.flags (value16 s dst) (srcValue16 s src))).advance len) := by
  simp [binary16, readRM16_eq s dst hd, readSrc16_eq s src hs, writeRM16_eq s dst _ hd]

/-- Everything `binary16` can do. -/
theorem binary16_cases (op : Word → Word → Word) (fl : Flags → Word → Word → Flags) (dst : RM16) (src : Src16) (len : Nat)
    (s : State) :
    (∃ f, binary16 op fl dst src len s = .next { s with status := .faulted f }) ∨
      inRange16 s dst ∧ srcInRange16 s src ∧
      binary16 op fl dst src len s = .next (((put16 s dst (op (value16 s dst) (srcValue16 s src))).setFlags
        (fl s.flags (value16 s dst) (srcValue16 s src))).advance len) := by
  rcases readRM16_cases s dst with ⟨hd, -⟩ | ⟨f, hf⟩
  · rcases readSrc16_cases s src with ⟨hs, -⟩ | ⟨f, hf⟩
    · exact .inr ⟨hd, hs, binary16_completes op fl dst src len s hd hs⟩
    · exact .inl ⟨f, by simp [binary16, readRM16_eq s dst hd, hf]⟩
  · exact .inl ⟨f, by simp [binary16, hf]⟩

theorem compare16_completes (fl : Flags → Word → Word → Flags) (dst : RM16) (src : Src16) (len : Nat) (s : State)
    (hd : inRange16 s dst) (hs : srcInRange16 s src) :
    compare16 fl dst src len s =
      .next ((s.setFlags (fl s.flags (value16 s dst) (srcValue16 s src))).advance len) := by
  simp [compare16, readRM16_eq s dst hd, readSrc16_eq s src hs]

/-- Everything `compare16` can do. -/
theorem compare16_cases (fl : Flags → Word → Word → Flags) (dst : RM16) (src : Src16) (len : Nat) (s : State) :
    (∃ f, compare16 fl dst src len s = .next { s with status := .faulted f }) ∨
      inRange16 s dst ∧ srcInRange16 s src ∧ compare16 fl dst src len s =
        .next ((s.setFlags (fl s.flags (value16 s dst) (srcValue16 s src))).advance len) := by
  rcases readRM16_cases s dst with ⟨hd, -⟩ | ⟨f, hf⟩
  · rcases readSrc16_cases s src with ⟨hs, -⟩ | ⟨f, hf⟩
    · exact .inr ⟨hd, hs, compare16_completes fl dst src len s hd hs⟩
    · exact .inl ⟨f, by simp [compare16, readRM16_eq s dst hd, hf]⟩
  · exact .inl ⟨f, by simp [compare16, hf]⟩

theorem unary16_completes (op : Word → Word) (fl : Flags → Word → Flags) (dst : RM16) (len : Nat) (s : State)
    (hd : inRange16 s dst) :
    unary16 op fl dst len s =
      .next (((put16 s dst (op (value16 s dst))).setFlags (fl s.flags (value16 s dst))).advance len) := by
  simp [unary16, readRM16_eq s dst hd, writeRM16_eq s dst _ hd]

/-- Everything `unary16` can do. -/
theorem unary16_cases (op : Word → Word) (fl : Flags → Word → Flags) (dst : RM16) (len : Nat) (s : State) :
    (∃ f, unary16 op fl dst len s = .next { s with status := .faulted f }) ∨
      inRange16 s dst ∧ unary16 op fl dst len s =
        .next (((put16 s dst (op (value16 s dst))).setFlags (fl s.flags (value16 s dst))).advance len) := by
  rcases readRM16_cases s dst with ⟨hd, -⟩ | ⟨f, hf⟩
  · exact .inr ⟨hd, unary16_completes op fl dst len s hd⟩
  · exact .inl ⟨f, by simp [unary16, hf]⟩

theorem move16_completes (dst : RM16) (src : Src16) (len : Nat) (s : State) (hd : inRange16 s dst)
    (hs : srcInRange16 s src) : move16 dst src len s = .next ((put16 s dst (srcValue16 s src)).advance len) := by
  simp [move16, readSrc16_eq s src hs, writeRM16_eq s dst _ hd]

/-- Everything `move16` can do. -/
theorem move16_cases (dst : RM16) (src : Src16) (len : Nat) (s : State) :
    (∃ f, move16 dst src len s = .next { s with status := .faulted f }) ∨
      inRange16 s dst ∧ srcInRange16 s src ∧
      move16 dst src len s = .next ((put16 s dst (srcValue16 s src)).advance len) := by
  rcases readSrc16_cases s src with ⟨hs, -⟩ | ⟨f, hf⟩
  · rcases writeRM16_cases s dst (srcValue16 s src) with ⟨hd, -⟩ | ⟨f, hf⟩
    · exact .inr ⟨hd, hs, move16_completes dst src len s hd hs⟩
    · exact .inl ⟨f, by simp [move16, readSrc16_eq s src hs, hf]⟩
  · exact .inl ⟨f, by simp [move16, hf]⟩

/-- The value PUSH stores, when its operand is in range. -/
def pushValue (s : State) (src : RM16) : Word := if src = .reg .sp then s.loweredSp else value16 s src

theorem pushedValue_cases (s : State) (src : RM16) :
    (inRange16 s src ∧ pushedValue s src = .ok (pushValue s src)) ∨ ∃ f, pushedValue s src = .error f := by
  unfold pushedValue pushValue
  by_cases h : src = .reg .sp
  · exact .inl ⟨by simp [h, inRange16], by simp [h]⟩
  · simpa [h] using readRM16_cases s src

/-- Everything `pushShape` can do. -/
theorem pushShape_cases (src : RM16) (len : Nat) (s : State) :
    (∃ f, pushShape src len s = .next { s with status := .faulted f }) ∨
      inRange16 s src ∧ pushInRange s ∧ pushShape src len s = .next ((pushed s (pushValue s src)).advance len) := by
  rcases pushedValue_cases s src with ⟨hs, hv⟩ | ⟨f, hf⟩
  · rcases push_cases s (pushValue s src) with ⟨hp, he⟩ | ⟨f, hf⟩
    · exact .inr ⟨hs, hp, by simp [pushShape, hv, he]⟩
    · exact .inl ⟨f, by simp [pushShape, hv, hf]⟩
  · exact .inl ⟨f, by simp [pushShape, hf]⟩

/-- The effective address of no operand depends on SP (40_data_movement.md R133). -/
theorem effAddr_set_sp (g : Regs) (v : Word) (m : MemOp) : effAddr (g.set .sp v) m = effAddr g m := by
  have hb : ∀ b, baseValue (g.set .sp v) b = baseValue g b := by intro b; cases b <;> rfl
  cases m <;> simp [effAddr, hb]

/-- Everything `popShape` can do. -/
theorem popShape_cases (dst : RM16) (len : Nat) (s : State) :
    (∃ f, popShape dst len s = .next { s with status := .faulted f }) ∨
      popInRange s ∧ inRange16 s dst ∧ popShape dst len s = .next
        ((put16 (s.setReg .sp (s.regs.sp + 2)) dst (s.mem.readWord s.regs.sp.toNat)).advance len) := by
  rcases pop_cases s with ⟨hp, he⟩ | ⟨f, hf⟩
  · rcases writeRM16_cases (s.setReg .sp (s.regs.sp + 2)) dst (s.mem.readWord s.regs.sp.toNat) with ⟨hd, hw⟩ | ⟨f, hf⟩
    · refine .inr ⟨hp, ?_, by simp only [popShape, he, except_ok_bind, hw, except_pure, commit_ok]⟩
      cases dst with
      | reg r => rfl
      | mem m => simpa [inRange16, effAddr_set_sp] using hd
    · exact .inl ⟨f, by simp only [popShape, he, except_ok_bind, hf, except_error_bind, commit_error]⟩
  · exact .inl ⟨f, by simp [popShape, hf]⟩

/-- Everything `mul8` can do. -/
theorem mul8_cases (src : RM8) (len : Nat) (s : State) :
    (∃ f, mul8 src len s = .next { s with status := .faulted f }) ∨
      inRange8 s src ∧ mul8 src len s = .next
        (((s.setReg .ax (BitVec.ofNat 16 ((s.regs.get8 .al).toNat * (value8 s src).toNat))).setFlags
          (s.flags.afterMul ((s.regs.get8 .al).toNat * (value8 s src).toNat / 2 ^ 8))).advance len) := by
  rcases readRM8_cases s src with ⟨hs, he⟩ | ⟨f, hf⟩
  · exact .inr ⟨hs, by simp [mul8, he]⟩
  · exact .inl ⟨f, by simp [mul8, hf]⟩

/-- Everything `mul16` can do. -/
theorem mul16_cases (src : RM16) (len : Nat) (s : State) :
    (∃ f, mul16 src len s = .next { s with status := .faulted f }) ∨
      inRange16 s src ∧ mul16 src len s = .next
        ((((s.setReg .ax (BitVec.ofNat 16 (s.regs.ax.toNat * (value16 s src).toNat))).setReg .dx
          (BitVec.ofNat 16 (s.regs.ax.toNat * (value16 s src).toNat / 2 ^ 16))).setFlags
          (s.flags.afterMul (s.regs.ax.toNat * (value16 s src).toNat / 2 ^ 16))).advance len) := by
  rcases readRM16_cases s src with ⟨hs, he⟩ | ⟨f, hf⟩
  · exact .inr ⟨hs, by simp [mul16, he]⟩
  · exact .inl ⟨f, by simp [mul16, hf]⟩

/-- Everything `div8` can do. -/
theorem div8_cases (src : RM8) (len : Nat) (s : State) :
    (∃ f, div8 src len s = .next { s with status := .faulted f }) ∨
      ∃ qr, inRange8 s src ∧ divideUnsigned 8 s.regs.ax.toNat (value8 s src).toNat = .ok qr ∧ div8 src len s =
        .next ((s.putQuotient8 (BitVec.ofNat 8 qr.1) (BitVec.ofNat 8 qr.2)).advance len) := by
  rcases readRM8_cases s src with ⟨hs, he⟩ | ⟨f, hf⟩
  · cases hd : divideUnsigned 8 s.regs.ax.toNat (value8 s src).toNat with
    | ok qr => exact .inr ⟨qr, hs, rfl, by simp [div8, he, hd]⟩
    | error f => exact .inl ⟨f, by simp [div8, he, hd]⟩
  · exact .inl ⟨f, by simp [div8, hf]⟩

/-- Everything `div16` can do. -/
theorem div16_cases (src : RM16) (len : Nat) (s : State) :
    (∃ f, div16 src len s = .next { s with status := .faulted f }) ∨
      ∃ qr, inRange16 s src ∧ divideUnsigned 16 s.dxax.toNat (value16 s src).toNat = .ok qr ∧ div16 src len s =
        .next ((s.putQuotient16 (BitVec.ofNat 16 qr.1) (BitVec.ofNat 16 qr.2)).advance len) := by
  rcases readRM16_cases s src with ⟨hs, he⟩ | ⟨f, hf⟩
  · cases hd : divideUnsigned 16 s.dxax.toNat (value16 s src).toNat with
    | ok qr => exact .inr ⟨qr, hs, rfl, by simp [div16, he, hd]⟩
    | error f => exact .inl ⟨f, by simp [div16, he, hd]⟩
  · exact .inl ⟨f, by simp [div16, hf]⟩

/-- Everything `idiv8` can do. -/
theorem idiv8_cases (src : RM8) (len : Nat) (s : State) :
    (∃ f, idiv8 src len s = .next { s with status := .faulted f }) ∨
      ∃ qr, inRange8 s src ∧ divideSigned 8 s.regs.ax.toInt (value8 s src).toInt = .ok qr ∧ idiv8 src len s =
        .next ((s.putQuotient8 (BitVec.ofInt 8 qr.1) (BitVec.ofInt 8 qr.2)).advance len) := by
  rcases readRM8_cases s src with ⟨hs, he⟩ | ⟨f, hf⟩
  · cases hd : divideSigned 8 s.regs.ax.toInt (value8 s src).toInt with
    | ok qr => exact .inr ⟨qr, hs, rfl, by simp [idiv8, he, hd]⟩
    | error f => exact .inl ⟨f, by simp [idiv8, he, hd]⟩
  · exact .inl ⟨f, by simp [idiv8, hf]⟩

/-- Everything `idiv16` can do. -/
theorem idiv16_cases (src : RM16) (len : Nat) (s : State) :
    (∃ f, idiv16 src len s = .next { s with status := .faulted f }) ∨
      ∃ qr, inRange16 s src ∧ divideSigned 16 s.dxax.toInt (value16 s src).toInt = .ok qr ∧ idiv16 src len s =
        .next ((s.putQuotient16 (BitVec.ofInt 16 qr.1) (BitVec.ofInt 16 qr.2)).advance len) := by
  rcases readRM16_cases s src with ⟨hs, he⟩ | ⟨f, hf⟩
  · cases hd : divideSigned 16 s.dxax.toInt (value16 s src).toInt with
    | ok qr => exact .inr ⟨qr, hs, rfl, by simp [idiv16, he, hd]⟩
    | error f => exact .inl ⟨f, by simp [idiv16, he, hd]⟩
  · exact .inl ⟨f, by simp [idiv16, hf]⟩

/-- Everything `jumpTo` can do. -/
theorem jumpTo_cases (target : Except Fault Word) (s : State) :
    (∃ f, jumpTo target s = .next { s with status := .faulted f }) ∨
      ∃ a, target = .ok a ∧ jumpTo target s = .next (s.setPc a) := by
  cases target with
  | ok a => exact .inr ⟨a, rfl, rfl⟩
  | error f => exact .inl ⟨f, rfl⟩

/-- Everything `branchIf` can do. -/
theorem branchIf_cases (c : Bool) (d : Byte) (s : State) : ∃ a, branchIf c d s = .next (s.setPc a) := by
  cases c
  · exact ⟨_, rfl⟩
  · exact ⟨_, rfl⟩

/-- Everything `callTo` can do. -/
theorem callTo_cases (target : Except Fault Word) (len : Nat) (s : State) :
    (∃ f, callTo target len s = .next { s with status := .faulted f }) ∨
      ∃ a, target = .ok a ∧ pushInRange s ∧
        callTo target len s = .next ((pushed s (s.next len)).setPc a) := by
  cases target with
  | error f => exact .inl ⟨f, rfl⟩
  | ok a =>
    rcases push_cases s (s.next len) with ⟨hp, he⟩ | ⟨f, hf⟩
    · exact .inr ⟨a, rfl, hp, by simp [callTo, he]⟩
    · exact .inl ⟨f, by simp [callTo, hf]⟩

/-- Everything `returnReleasing` can do. -/
theorem returnReleasing_cases (k : Word) (s : State) :
    (∃ f, returnReleasing k s = .next { s with status := .faulted f }) ∨
      popInRange s ∧ returnReleasing k s = .next
        (((s.setReg .sp (s.regs.sp + 2)).setReg .sp (s.regs.sp + 2 + k)).setPc (s.mem.readWord s.regs.sp.toNat)) := by
  rcases pop_cases s with ⟨hp, he⟩ | ⟨f, hf⟩
  · refine .inr ⟨hp, ?_⟩
    simp [returnReleasing, he, Regs.set]
  · exact .inl ⟨f, by simp [returnReleasing, hf]⟩

end Sys2Proof.Machine
end

