-- ==== Sys2Proof/Laws/Effects.lean ====
section
/-! SUPPORT. The tables of Machine/Effects.lean: they agree with one another (the stores lie on the cells, the cells within
the accesses); reading and writing an operand in terms of its accesses; reading a byte that was stored. -/

namespace Sys2Proof.Machine

theorem rm8Store_fst (s : State) (rm : RM8) (v : Byte) : (rm8Store s rm v).map Prod.fst = rm8Cells s rm := by
  cases rm <;> rfl

theorem rm16Store_fst (s : State) (rm : RM16) (v : Word) : (rm16Store s rm v).map Prod.fst = rm16Cells s rm := by
  cases rm <;> rfl

/-- An instruction stores exactly to its cells. -/
theorem instrStores_fst (s : State) (i : Instr) : (instrStores s i).map Prod.fst = instrCells s i := by
  cases i <;> first | rfl | exact rm8Store_fst _ _ _ | exact rm16Store_fst _ _ _

/-- The addresses an access covers. -/
def Access.cells (p : Access) : List Nat := (List.range p.2).map (p.1.toNat + ·)

theorem rm8Cells_accessed (s : State) (rm : RM8) : ∀ a ∈ rm8Cells s rm, ∃ p ∈ rm8Access s rm, a ∈ Access.cells p := by
  cases rm <;> simp [rm8Cells, rm8Access, Access.cells]

theorem rm16Cells_accessed (s : State) (rm : RM16) :
    ∀ a ∈ rm16Cells s rm, ∃ p ∈ rm16Access s rm, a ∈ Access.cells p := by
  cases rm <;> simp [rm16Cells, rm16Access, wordAt, Access.cells]

/-- Every cell an instruction stores to is covered by one of its accesses. -/
theorem instrCells_accessed (s : State) (i : Instr) :
    ∀ a ∈ instrCells s i, ∃ p ∈ instrAccesses s i, a ∈ Access.cells p := by
  cases i <;> first
    | exact rm8Cells_accessed _ _
    | exact rm16Cells_accessed _ _
    | (simp [instrCells, instrAccesses, wordAt, Access.cells]; done)
    | (intro a h; obtain ⟨p, hp, h⟩ := rm16Cells_accessed _ _ a h; exact ⟨p, List.mem_cons_of_mem _ hp, h⟩)

/-! ## The first access out of range -/

@[simp] theorem firstOutsideOf_nil (s : State) : firstOutsideOf s [] = none := rfl

theorem firstOutsideOf_one (s : State) (a : Word) (n : Nat) :
    firstOutsideOf s [(a, n)] = if s.memSize < a.toNat + n then some a else none := by
  unfold firstOutsideOf
  by_cases h : s.memSize < a.toNat + n <;> simp [Access.outside, h]

theorem firstOutsideOf_append (s : State) (l m : List Access) :
    firstOutsideOf s (l ++ m) = (firstOutsideOf s l).or (firstOutsideOf s m) := by
  unfold firstOutsideOf
  rw [List.find?_append]
  cases l.find? (Access.outside s) <;> simp

/-- The first access out of range is one of the list, and has a byte outside memory. -/
theorem firstOutsideOf_some {s : State} {l : List Access} {a : Word} (h : firstOutsideOf s l = some a) :
    ∃ n, (a, n) ∈ l ∧ s.memSize < a.toNat + n := by
  unfold firstOutsideOf at h
  split at h
  · next p hp =>
    cases h
    exact ⟨p.2, List.mem_of_find?_eq_some hp, by simpa [Access.outside] using List.find?_some hp⟩
  · cases h

/-- Everything reading and writing an r/m8 operand can do. -/
theorem rm8_access (s : State) (x : RM8) :
    (firstOutsideOf s (rm8Access s x) = none ∧ readRM8 s x = .ok (value8 s x) ∧
      ∀ v, writeRM8 s x v = .ok (put8 s x v)) ∨
    ∃ a, firstOutsideOf s (rm8Access s x) = some a ∧ readRM8 s x = .error (.memoryFault a) ∧
      ∀ v, writeRM8 s x v = .error (.memoryFault a) := by
  cases x with
  | reg r => exact .inl ⟨rfl, rfl, fun _ => rfl⟩
  | mem m =>
    rw [rm8Access, firstOutsideOf_one]
    by_cases h : (effAddr s.regs m).toNat < s.memSize
    · exact .inl ⟨if_neg (by omega), if_pos h, fun _ => if_pos h⟩
    · exact .inr ⟨_, if_pos (by omega), if_neg h, fun _ => if_neg h⟩

/-- Everything reading and writing an r/m16 operand can do. -/
theorem rm16_access (s : State) (x : RM16) :
    (firstOutsideOf s (rm16Access s x) = none ∧ readRM16 s x = .ok (value16 s x) ∧
      ∀ v, writeRM16 s x v = .ok (put16 s x v)) ∨
    ∃ a, firstOutsideOf s (rm16Access s x) = some a ∧ readRM16 s x = .error (.memoryFault a) ∧
      ∀ v, writeRM16 s x v = .error (.memoryFault a) := by
  cases x with
  | reg r => exact .inl ⟨rfl, rfl, fun _ => rfl⟩
  | mem m =>
    rw [rm16Access, firstOutsideOf_one]
    by_cases h : (effAddr s.regs m).toNat + 1 < s.memSize
    · exact .inl ⟨if_neg (by omega), if_pos h, fun _ => if_pos h⟩
    · exact .inr ⟨_, if_pos (by omega), if_neg h, fun _ => if_neg h⟩

/-- Everything a push can do. -/
theorem push_access (s : State) (v : Word) :
    (firstOutsideOf s [(s.loweredSp, 2)] = none ∧ s.push v = .ok (pushed s v)) ∨
    (firstOutsideOf s [(s.loweredSp, 2)] = some s.loweredSp ∧ s.push v = .error (.memoryFault s.loweredSp)) := by
  rw [firstOutsideOf_one]
  rcases Nat.lt_or_ge (s.loweredSp.toNat + 1) s.memSize with h | h
  · exact .inl ⟨if_neg (by omega), push_eq s v (decide_eq_true h)⟩
  · exact .inr ⟨if_pos (by omega), by simp [State.push, State.memWrite16, Nat.not_lt.mpr h]⟩

/-- Everything a pop can do. -/
theorem pop_access (s : State) :
    (firstOutsideOf s [(s.regs.sp, 2)] = none ∧
      s.pop = .ok (s.mem.readWord s.regs.sp.toNat, s.setReg .sp (s.regs.sp + 2))) ∨
    (firstOutsideOf s [(s.regs.sp, 2)] = some s.regs.sp ∧ s.pop = .error (.memoryFault s.regs.sp)) := by
  rw [firstOutsideOf_one]
  rcases Nat.lt_or_ge (s.regs.sp.toNat + 1) s.memSize with h | h
  · exact .inl ⟨if_neg (by omega), pop_eq s (decide_eq_true h)⟩
  · exact .inr ⟨if_pos (by omega), by simp [State.pop, State.memRead16, Nat.not_lt.mpr h]⟩

/-! ## Reading a byte that was stored -/

/-- The bytes of a stored word read back. -/
theorem read_wordStore {m : Memory} (hm : m.wf) {x w : Word} {a : Nat} {v : Byte} (h : (a, v) ∈ wordStore x w) :
    (m.writeWord x.toNat w).read a = v := by
  simp only [wordStore, List.mem_cons, Prod.mk.injEq, List.not_mem_nil, or_false] at h
  rcases h with ⟨rfl, rfl⟩ | ⟨rfl, rfl⟩
  · exact Memory.read_writeWord_low hm _ _
  · exact Memory.read_writeWord_high hm _ _

/-- The byte stored to an r/m8 operand reads back. -/
theorem read_rm8Store {s : State} (hm : s.mem.wf) {d : RM8} {w v : Byte} {a : Nat} (h : (a, v) ∈ rm8Store s d w) :
    (put8 s d w).mem.read a = v := by
  cases d with
  | reg r => simp [rm8Store] at h
  | mem m =>
    simp only [rm8Store, List.mem_singleton, Prod.mk.injEq] at h
    obtain ⟨rfl, rfl⟩ := h
    exact Memory.read_write_self hm _ _

/-- The bytes stored to an r/m16 operand read back. -/
theorem read_rm16Store {s : State} (hm : s.mem.wf) {d : RM16} {w : Word} {a : Nat} {v : Byte}
    (h : (a, v) ∈ rm16Store s d w) : (put16 s d w).mem.read a = v := by
  cases d with
  | reg r => simp [rm16Store] at h
  | mem m => exact read_wordStore hm h

end Sys2Proof.Machine
end

