-- ==== Sys2Proof/Laws/PerInstr.lean ====
section
/-! SUPPORT. Facts about every instruction as syntax, one lemma per constructor. -/

namespace Sys2Proof.Laws.EncodeLength

/-- The encoding of the instruction has the length its rule's table gives (30_encoding.md R81), one to six bytes (R80). -/
def Statement (i : Instr) : Prop := (encode i).length = i.len ∧ 1 ≤ i.len ∧ i.len ≤ 6

/-- What `Statement` says of a list of bytes and a length. -/
abbrev Fits (bs : List Byte) (n : Nat) : Prop := bs.length = n ∧ 1 ≤ n ∧ n ≤ 6

/-- An encoding of `n` bytes and no mode byte. -/
theorem fixed {bs : List Byte} (n : Nat) (h : bs.length = n) (h1 : 1 ≤ n) (h6 : n ≤ 6) : Fits bs n := ⟨h, h1, h6⟩

/-- An opcode, a mode byte with its displacement, and `tail` bytes of immediate, at most two. -/
theorem withMode {mode : List Byte} {disp : Nat} (b : Byte) (tail : List Byte) (n : Nat) (h : mode.length = 1 + disp)
    (hd : disp ≤ 2) (ht : tail.length ≤ 2) (hn : n = 2 + tail.length) : Fits (b :: (mode ++ tail)) (n + disp) := by
  refine ⟨?_, ?_, ?_⟩
  · simp only [List.length_cons, List.length_append]; omega
  · omega
  · omega

/-- The same without an immediate. -/
theorem modeOnly {mode : List Byte} {disp : Nat} (b : Byte) (h : mode.length = 1 + disp) (hd : disp ≤ 2) :
    Fits (b :: mode) (2 + disp) := by
  refine ⟨?_, ?_, ?_⟩
  · simp only [List.length_cons]; omega
  · omega
  · omega

/-- One, two and three are lengths. -/
theorem one {bs : List Byte} (h : bs.length = 1) : Fits bs 1 := fixed 1 h (by omega) (by omega)
theorem two {bs : List Byte} (h : bs.length = 2) : Fits bs 2 := fixed 2 h (by omega) (by omega)
theorem three {bs : List Byte} (h : bs.length = 3) : Fits bs 3 := fixed 3 h (by omega) (by omega)

/-- The mode bytes of an r/m8 operand, with and without an immediate byte. -/
theorem rm8Plain (b : Byte) (k : BitVec 3) (rm : RM8) : Fits (b :: rm.bytes k) (2 + rm.dispBytes) :=
  modeOnly b (rm.bytes_length k) rm.dispBytes_le
theorem rm8Imm (b : Byte) (k : BitVec 3) (rm : RM8) (v : Byte) : Fits (b :: (rm.bytes k ++ [v])) (3 + rm.dispBytes) :=
  withMode b [v] 3 (rm.bytes_length k) rm.dispBytes_le (by simp) rfl

/-- The mode bytes of an r/m16 operand, without an immediate, with a byte and with a word. -/
theorem rm16Plain (b : Byte) (k : BitVec 3) (rm : RM16) : Fits (b :: rm.bytes k) (2 + rm.dispBytes) :=
  modeOnly b (rm.bytes_length k) rm.dispBytes_le
theorem rm16Imm8 (b : Byte) (k : BitVec 3) (rm : RM16) (v : Byte) : Fits (b :: (rm.bytes k ++ [v])) (3 + rm.dispBytes) :=
  withMode b [v] 3 (rm.bytes_length k) rm.dispBytes_le (by simp) rfl
theorem rm16Imm16 (b : Byte) (k : BitVec 3) (rm : RM16) (v : Word) : Fits (b :: (rm.bytes k ++ le16 v)) (4 + rm.dispBytes) :=
  withMode b (le16 v) 4 (rm.bytes_length k) rm.dispBytes_le (by simp) rfl

theorem addRm8R8 (rm : RM8) (r : Reg8) : Statement (.addRm8R8 rm r) := rm8Plain _ _ rm
theorem addRm16R16 (rm : RM16) (r : Reg16) : Statement (.addRm16R16 rm r) := rm16Plain _ _ rm
theorem addR8Rm8 (r : Reg8) (rm : RM8) : Statement (.addR8Rm8 r rm) := rm8Plain _ _ rm
theorem addR16Rm16 (r : Reg16) (rm : RM16) : Statement (.addR16Rm16 r rm) := rm16Plain _ _ rm
theorem addAlImm8 (v : Byte) : Statement (.addAlImm8 v) := two rfl
theorem addAxImm16 (v : Word) : Statement (.addAxImm16 v) := three rfl
theorem addRm8Imm8 (rm : RM8) (v : Byte) : Statement (.addRm8Imm8 rm v) := rm8Imm _ _ rm v
theorem addRm16Imm16 (rm : RM16) (v : Word) : Statement (.addRm16Imm16 rm v) := rm16Imm16 _ _ rm v
theorem addRm16Simm8 (rm : RM16) (v : Byte) : Statement (.addRm16Simm8 rm v) := rm16Imm8 _ _ rm v
theorem orRm8R8 (rm : RM8) (r : Reg8) : Statement (.orRm8R8 rm r) := rm8Plain _ _ rm
theorem orRm16R16 (rm : RM16) (r : Reg16) : Statement (.orRm16R16 rm r) := rm16Plain _ _ rm
theorem orR8Rm8 (r : Reg8) (rm : RM8) : Statement (.orR8Rm8 r rm) := rm8Plain _ _ rm
theorem orR16Rm16 (r : Reg16) (rm : RM16) : Statement (.orR16Rm16 r rm) := rm16Plain _ _ rm
theorem orAlImm8 (v : Byte) : Statement (.orAlImm8 v) := two rfl
theorem orAxImm16 (v : Word) : Statement (.orAxImm16 v) := three rfl
theorem orRm8Imm8 (rm : RM8) (v : Byte) : Statement (.orRm8Imm8 rm v) := rm8Imm _ _ rm v
theorem orRm16Imm16 (rm : RM16) (v : Word) : Statement (.orRm16Imm16 rm v) := rm16Imm16 _ _ rm v
theorem orRm16Simm8 (rm : RM16) (v : Byte) : Statement (.orRm16Simm8 rm v) := rm16Imm8 _ _ rm v
theorem andRm8R8 (rm : RM8) (r : Reg8) : Statement (.andRm8R8 rm r) := rm8Plain _ _ rm
theorem andRm16R16 (rm : RM16) (r : Reg16) : Statement (.andRm16R16 rm r) := rm16Plain _ _ rm
theorem andR8Rm8 (r : Reg8) (rm : RM8) : Statement (.andR8Rm8 r rm) := rm8Plain _ _ rm
theorem andR16Rm16 (r : Reg16) (rm : RM16) : Statement (.andR16Rm16 r rm) := rm16Plain _ _ rm
theorem andAlImm8 (v : Byte) : Statement (.andAlImm8 v) := two rfl
theorem andAxImm16 (v : Word) : Statement (.andAxImm16 v) := three rfl
theorem andRm8Imm8 (rm : RM8) (v : Byte) : Statement (.andRm8Imm8 rm v) := rm8Imm _ _ rm v
theorem andRm16Imm16 (rm : RM16) (v : Word) : Statement (.andRm16Imm16 rm v) := rm16Imm16 _ _ rm v
theorem andRm16Simm8 (rm : RM16) (v : Byte) : Statement (.andRm16Simm8 rm v) := rm16Imm8 _ _ rm v
theorem subRm8R8 (rm : RM8) (r : Reg8) : Statement (.subRm8R8 rm r) := rm8Plain _ _ rm
theorem subRm16R16 (rm : RM16) (r : Reg16) : Statement (.subRm16R16 rm r) := rm16Plain _ _ rm
theorem subR8Rm8 (r : Reg8) (rm : RM8) : Statement (.subR8Rm8 r rm) := rm8Plain _ _ rm
theorem subR16Rm16 (r : Reg16) (rm : RM16) : Statement (.subR16Rm16 r rm) := rm16Plain _ _ rm
theorem subAlImm8 (v : Byte) : Statement (.subAlImm8 v) := two rfl
theorem subAxImm16 (v : Word) : Statement (.subAxImm16 v) := three rfl
theorem subRm8Imm8 (rm : RM8) (v : Byte) : Statement (.subRm8Imm8 rm v) := rm8Imm _ _ rm v
theorem subRm16Imm16 (rm : RM16) (v : Word) : Statement (.subRm16Imm16 rm v) := rm16Imm16 _ _ rm v
theorem subRm16Simm8 (rm : RM16) (v : Byte) : Statement (.subRm16Simm8 rm v) := rm16Imm8 _ _ rm v
theorem xorRm8R8 (rm : RM8) (r : Reg8) : Statement (.xorRm8R8 rm r) := rm8Plain _ _ rm
theorem xorRm16R16 (rm : RM16) (r : Reg16) : Statement (.xorRm16R16 rm r) := rm16Plain _ _ rm
theorem xorR8Rm8 (r : Reg8) (rm : RM8) : Statement (.xorR8Rm8 r rm) := rm8Plain _ _ rm
theorem xorR16Rm16 (r : Reg16) (rm : RM16) : Statement (.xorR16Rm16 r rm) := rm16Plain _ _ rm
theorem xorAlImm8 (v : Byte) : Statement (.xorAlImm8 v) := two rfl
theorem xorAxImm16 (v : Word) : Statement (.xorAxImm16 v) := three rfl
theorem xorRm8Imm8 (rm : RM8) (v : Byte) : Statement (.xorRm8Imm8 rm v) := rm8Imm _ _ rm v
theorem xorRm16Imm16 (rm : RM16) (v : Word) : Statement (.xorRm16Imm16 rm v) := rm16Imm16 _ _ rm v
theorem xorRm16Simm8 (rm : RM16) (v : Byte) : Statement (.xorRm16Simm8 rm v) := rm16Imm8 _ _ rm v
theorem cmpRm8R8 (rm : RM8) (r : Reg8) : Statement (.cmpRm8R8 rm r) := rm8Plain _ _ rm
theorem cmpRm16R16 (rm : RM16) (r : Reg16) : Statement (.cmpRm16R16 rm r) := rm16Plain _ _ rm
theorem cmpR8Rm8 (r : Reg8) (rm : RM8) : Statement (.cmpR8Rm8 r rm) := rm8Plain _ _ rm
theorem cmpR16Rm16 (r : Reg16) (rm : RM16) : Statement (.cmpR16Rm16 r rm) := rm16Plain _ _ rm
theorem cmpAlImm8 (v : Byte) : Statement (.cmpAlImm8 v) := two rfl
theorem cmpAxImm16 (v : Word) : Statement (.cmpAxImm16 v) := three rfl
theorem cmpRm8Imm8 (rm : RM8) (v : Byte) : Statement (.cmpRm8Imm8 rm v) := rm8Imm _ _ rm v
theorem cmpRm16Imm16 (rm : RM16) (v : Word) : Statement (.cmpRm16Imm16 rm v) := rm16Imm16 _ _ rm v
theorem cmpRm16Simm8 (rm : RM16) (v : Byte) : Statement (.cmpRm16Simm8 rm v) := rm16Imm8 _ _ rm v
theorem movRm8R8 (rm : RM8) (r : Reg8) : Statement (.movRm8R8 rm r) := rm8Plain _ _ rm
theorem movRm16R16 (rm : RM16) (r : Reg16) : Statement (.movRm16R16 rm r) := rm16Plain _ _ rm
theorem movR8Rm8 (r : Reg8) (rm : RM8) : Statement (.movR8Rm8 r rm) := rm8Plain _ _ rm
theorem movR16Rm16 (r : Reg16) (rm : RM16) : Statement (.movR16Rm16 r rm) := rm16Plain _ _ rm
theorem movAlMoffs (a : Word) : Statement (.movAlMoffs a) := three rfl
theorem movAxMoffs (a : Word) : Statement (.movAxMoffs a) := three rfl
theorem movMoffsAl (a : Word) : Statement (.movMoffsAl a) := three rfl
theorem movMoffsAx (a : Word) : Statement (.movMoffsAx a) := three rfl
theorem movR8Imm8 (r : Reg8) (v : Byte) : Statement (.movR8Imm8 r v) := two rfl
theorem movR16Imm16 (r : Reg16) (v : Word) : Statement (.movR16Imm16 r v) := three rfl
theorem movRm8Imm8 (rm : RM8) (v : Byte) : Statement (.movRm8Imm8 rm v) := rm8Imm _ _ rm v
theorem movRm16Imm16 (rm : RM16) (v : Word) : Statement (.movRm16Imm16 rm v) := rm16Imm16 _ _ rm v
theorem pushR16 (r : Reg16) : Statement (.pushR16 r) := one rfl
theorem pushRm16 (rm : RM16) : Statement (.pushRm16 rm) := rm16Plain _ _ rm
theorem popR16 (r : Reg16) : Statement (.popR16 r) := one rfl
theorem popRm16 (rm : RM16) : Statement (.popRm16 rm) := rm16Plain _ _ rm
theorem incR16 (r : Reg16) : Statement (.incR16 r) := one rfl
theorem incRm8 (rm : RM8) : Statement (.incRm8 rm) := rm8Plain _ _ rm
theorem incRm16 (rm : RM16) : Statement (.incRm16 rm) := rm16Plain _ _ rm
theorem decR16 (r : Reg16) : Statement (.decR16 r) := one rfl
theorem decRm8 (rm : RM8) : Statement (.decRm8 rm) := rm8Plain _ _ rm
theorem decRm16 (rm : RM16) : Statement (.decRm16 rm) := rm16Plain _ _ rm
theorem notRm8 (rm : RM8) : Statement (.notRm8 rm) := rm8Plain _ _ rm
theorem notRm16 (rm : RM16) : Statement (.notRm16 rm) := rm16Plain _ _ rm
theorem mulRm8 (rm : RM8) : Statement (.mulRm8 rm) := rm8Plain _ _ rm
theorem mulRm16 (rm : RM16) : Statement (.mulRm16 rm) := rm16Plain _ _ rm
theorem divRm8 (rm : RM8) : Statement (.divRm8 rm) := rm8Plain _ _ rm
theorem divRm16 (rm : RM16) : Statement (.divRm16 rm) := rm16Plain _ _ rm
theorem idivRm8 (rm : RM8) : Statement (.idivRm8 rm) := rm8Plain _ _ rm
theorem idivRm16 (rm : RM16) : Statement (.idivRm16 rm) := rm16Plain _ _ rm
theorem jmpRel8 (d : Byte) : Statement (.jmpRel8 d) := two rfl
theorem jmpRel16 (d : Word) : Statement (.jmpRel16 d) := three rfl
theorem jmpRm16 (rm : RM16) : Statement (.jmpRm16 rm) := rm16Plain _ _ rm
theorem jo (d : Byte) : Statement (.jo d) := two rfl
theorem jno (d : Byte) : Statement (.jno d) := two rfl
theorem jb (d : Byte) : Statement (.jb d) := two rfl
theorem jnb (d : Byte) : Statement (.jnb d) := two rfl
theorem je (d : Byte) : Statement (.je d) := two rfl
theorem jne (d : Byte) : Statement (.jne d) := two rfl
theorem jbe (d : Byte) : Statement (.jbe d) := two rfl
theorem jnbe (d : Byte) : Statement (.jnbe d) := two rfl
theorem js (d : Byte) : Statement (.js d) := two rfl
theorem jns (d : Byte) : Statement (.jns d) := two rfl
theorem jp (d : Byte) : Statement (.jp d) := two rfl
theorem jnp (d : Byte) : Statement (.jnp d) := two rfl
theorem jl (d : Byte) : Statement (.jl d) := two rfl
theorem jnl (d : Byte) : Statement (.jnl d) := two rfl
theorem jle (d : Byte) : Statement (.jle d) := two rfl
theorem jnle (d : Byte) : Statement (.jnle d) := two rfl
theorem callRel16 (d : Word) : Statement (.callRel16 d) := three rfl
theorem callRm16 (rm : RM16) : Statement (.callRm16 rm) := rm16Plain _ _ rm
theorem ret : Statement .ret := one rfl
theorem retImm16 (v : Word) : Statement (.retImm16 v) := three rfl
theorem loop (d : Byte) : Statement (.loop d) := two rfl
theorem hlt : Statement .hlt := one rfl
theorem nop : Statement .nop := one rfl
theorem inAlImm8 : Statement .inAlImm8 := one rfl
theorem inAxImm8 : Statement .inAxImm8 := one rfl
theorem inAlDx : Statement .inAlDx := one rfl
theorem inAxDx : Statement .inAxDx := one rfl
theorem outImm8Al : Statement .outImm8Al := one rfl
theorem outImm8Ax : Statement .outImm8Ax := one rfl
theorem outDxAl : Statement .outDxAl := one rfl
theorem outDxAx : Statement .outDxAx := one rfl
theorem lock : Statement .lock := one rfl
theorem wait : Statement .wait := one rfl

end Sys2Proof.Laws.EncodeLength
end

