-- ==== Sys2Proof/Tests/Slice0.lean ====
section
/-! SUPPORT. Tests: ill-formed terms the check refuses, one decoded word for every constructor, one step on the vectors of
95_test_vectors.md, and a witness for the hypotheses of every obligation. Expected values come from the spec. -/

namespace Sys2Proof.Tests

open Sys2Proof Sys2Proof.Machine

/-! ## WellFormed -/

/-- `[BP]` without a displacement has no encoding (30_encoding.md R88): refused in a byte instruction. -/
theorem test_wf_refuses_bare_bp_byte : (Instr.movR8Rm8 .al (.mem (.noDisp .bp))).wf = false := by decide

/-- And in a word instruction, as destination and as the only operand. -/
theorem test_wf_refuses_bare_bp_word :
    (Instr.addRm16Simm8 (.mem (.noDisp .bp)) 1).wf = false ∧ (Instr.jmpRm16 (.mem (.noDisp .bp))).wf = false := by decide

/-- The forms R88 gives instead are accepted. -/
theorem test_wf_accepts_bp_with_displacement :
    (Instr.movR8Rm8 .al (.mem (.disp8 .bp 0))).wf = true ∧ (Instr.movR8Rm8 .al (.mem (.direct 0))).wf = true := by decide

/-! ## Decoding: words written out from 30_encoding.md R85, R86, R101 to R108 and from each instruction's own rule -/

/-- Every listed word decodes to its instruction with no byte left, and is that instruction's encoding. -/
def decodesAll (l : List (List Byte × Instr)) : Bool :=
  l.all fun p => decide (decode p.1 = .ok (p.2, [])) && decide (encode p.2 = p.1)

/-- ADD (R154), the nine forms. -/
theorem test_decode_add : decodesAll [
    ([0x00, 0xD8], .addRm8R8 (.reg .al) .bl),
    ([0x01, 0x1E, 0x00, 0x02], .addRm16R16 (.mem (.direct 0x0200)) .bx),
    ([0x02, 0x67, 0x7F], .addR8Rm8 .ah (.mem (.disp8 .bx 0x7F))),
    ([0x03, 0xB0, 0x34, 0x12], .addR16Rm16 .si (.mem (.disp16 .bxsi 0x1234))),
    ([0x04, 0x05], .addAlImm8 0x05),
    ([0x05, 0x34, 0x12], .addAxImm16 0x1234),
    ([0x80, 0xC4, 0x01], .addRm8Imm8 (.reg .ah) 0x01),
    ([0x81, 0x06, 0x00, 0x02, 0x34, 0x12], .addRm16Imm16 (.mem (.direct 0x0200)) 0x1234),
    ([0x83, 0x43, 0xFE, 0xFF], .addRm16Simm8 (.mem (.disp8 .bpdi 0xFE)) 0xFF)] = true := by decide

/-- OR (R182), the nine forms. -/
theorem test_decode_or : decodesAll [
    ([0x08, 0xD8], .orRm8R8 (.reg .al) .bl),
    ([0x09, 0x1E, 0x00, 0x02], .orRm16R16 (.mem (.direct 0x0200)) .bx),
    ([0x0A, 0x67, 0x7F], .orR8Rm8 .ah (.mem (.disp8 .bx 0x7F))),
    ([0x0B, 0xB0, 0x34, 0x12], .orR16Rm16 .si (.mem (.disp16 .bxsi 0x1234))),
    ([0x0C, 0x05], .orAlImm8 0x05),
    ([0x0D, 0x34, 0x12], .orAxImm16 0x1234),
    ([0x80, 0xCC, 0x01], .orRm8Imm8 (.reg .ah) 0x01),
    ([0x81, 0x0E, 0x00, 0x02, 0x34, 0x12], .orRm16Imm16 (.mem (.direct 0x0200)) 0x1234),
    ([0x83, 0x4B, 0xFE, 0xFF], .orRm16Simm8 (.mem (.disp8 .bpdi 0xFE)) 0xFF)] = true := by decide

/-- AND (R181), the nine forms. -/
theorem test_decode_and : decodesAll [
    ([0x20, 0xD8], .andRm8R8 (.reg .al) .bl),
    ([0x21, 0x1E, 0x00, 0x02], .andRm16R16 (.mem (.direct 0x0200)) .bx),
    ([0x22, 0x67, 0x7F], .andR8Rm8 .ah (.mem (.disp8 .bx 0x7F))),
    ([0x23, 0xB0, 0x34, 0x12], .andR16Rm16 .si (.mem (.disp16 .bxsi 0x1234))),
    ([0x24, 0x05], .andAlImm8 0x05),
    ([0x25, 0x34, 0x12], .andAxImm16 0x1234),
    ([0x80, 0xE4, 0x01], .andRm8Imm8 (.reg .ah) 0x01),
    ([0x81, 0x26, 0x00, 0x02, 0x34, 0x12], .andRm16Imm16 (.mem (.direct 0x0200)) 0x1234),
    ([0x83, 0x63, 0xFE, 0xFF], .andRm16Simm8 (.mem (.disp8 .bpdi 0xFE)) 0xFF)] = true := by decide

/-- SUB (R155), the nine forms. -/
theorem test_decode_sub : decodesAll [
    ([0x28, 0xD8], .subRm8R8 (.reg .al) .bl),
    ([0x29, 0x1E, 0x00, 0x02], .subRm16R16 (.mem (.direct 0x0200)) .bx),
    ([0x2A, 0x67, 0x7F], .subR8Rm8 .ah (.mem (.disp8 .bx 0x7F))),
    ([0x2B, 0xB0, 0x34, 0x12], .subR16Rm16 .si (.mem (.disp16 .bxsi 0x1234))),
    ([0x2C, 0x05], .subAlImm8 0x05),
    ([0x2D, 0x34, 0x12], .subAxImm16 0x1234),
    ([0x80, 0xEC, 0x01], .subRm8Imm8 (.reg .ah) 0x01),
    ([0x81, 0x2E, 0x00, 0x02, 0x34, 0x12], .subRm16Imm16 (.mem (.direct 0x0200)) 0x1234),
    ([0x83, 0x6B, 0xFE, 0xFF], .subRm16Simm8 (.mem (.disp8 .bpdi 0xFE)) 0xFF)] = true := by decide

/-- XOR (R183), the nine forms. -/
theorem test_decode_xor : decodesAll [
    ([0x30, 0xD8], .xorRm8R8 (.reg .al) .bl),
    ([0x31, 0x1E, 0x00, 0x02], .xorRm16R16 (.mem (.direct 0x0200)) .bx),
    ([0x32, 0x67, 0x7F], .xorR8Rm8 .ah (.mem (.disp8 .bx 0x7F))),
    ([0x33, 0xB0, 0x34, 0x12], .xorR16Rm16 .si (.mem (.disp16 .bxsi 0x1234))),
    ([0x34, 0x05], .xorAlImm8 0x05),
    ([0x35, 0x34, 0x12], .xorAxImm16 0x1234),
    ([0x80, 0xF4, 0x01], .xorRm8Imm8 (.reg .ah) 0x01),
    ([0x81, 0x36, 0x00, 0x02, 0x34, 0x12], .xorRm16Imm16 (.mem (.direct 0x0200)) 0x1234),
    ([0x83, 0x73, 0xFE, 0xFF], .xorRm16Simm8 (.mem (.disp8 .bpdi 0xFE)) 0xFF)] = true := by decide

/-- CMP (R156), the nine forms. -/
theorem test_decode_cmp : decodesAll [
    ([0x38, 0xD8], .cmpRm8R8 (.reg .al) .bl),
    ([0x39, 0x1E, 0x00, 0x02], .cmpRm16R16 (.mem (.direct 0x0200)) .bx),
    ([0x3A, 0x67, 0x7F], .cmpR8Rm8 .ah (.mem (.disp8 .bx 0x7F))),
    ([0x3B, 0xB0, 0x34, 0x12], .cmpR16Rm16 .si (.mem (.disp16 .bxsi 0x1234))),
    ([0x3C, 0x05], .cmpAlImm8 0x05),
    ([0x3D, 0x34, 0x12], .cmpAxImm16 0x1234),
    ([0x80, 0xFC, 0x01], .cmpRm8Imm8 (.reg .ah) 0x01),
    ([0x81, 0x3E, 0x00, 0x02, 0x34, 0x12], .cmpRm16Imm16 (.mem (.direct 0x0200)) 0x1234),
    ([0x83, 0x7B, 0xFE, 0xFF], .cmpRm16Simm8 (.mem (.disp8 .bpdi 0xFE)) 0xFF)] = true := by decide

/-- MOV (R131), the twelve forms. -/
theorem test_decode_mov : decodesAll [
    ([0x88, 0xE0], .movRm8R8 (.reg .al) .ah),
    ([0x89, 0x47, 0xFE], .movRm16R16 (.mem (.disp8 .bx 0xFE)) .ax),
    ([0x8A, 0x00], .movR8Rm8 .al (.mem (.noDisp .bxsi))),
    ([0x8B, 0x86, 0x34, 0x12], .movR16Rm16 .ax (.mem (.disp16 .bp 0x1234))),
    ([0xA0, 0x00, 0x02], .movAlMoffs 0x0200),
    ([0xA1, 0x00, 0x02], .movAxMoffs 0x0200),
    ([0xA2, 0x00, 0x02], .movMoffsAl 0x0200),
    ([0xA3, 0x00, 0x02], .movMoffsAx 0x0200),
    ([0xB7, 0x01], .movR8Imm8 .bh 0x01),
    ([0xBC, 0x00, 0x01], .movR16Imm16 .sp 0x0100),
    ([0xC6, 0x06, 0x00, 0x02, 0x7F], .movRm8Imm8 (.mem (.direct 0x0200)) 0x7F),
    ([0xC7, 0x84, 0x00, 0x01, 0x34, 0x12], .movRm16Imm16 (.mem (.disp16 .si 0x0100)) 0x1234)] = true := by decide

/-- The eight rows of R86 with mod = 0, with mod = 1 and rm = 6, and with mod = 3. -/
theorem test_decode_rm_modes : decodesAll [
    ([0x8B, 0x00], .movR16Rm16 .ax (.mem (.noDisp .bxsi))),
    ([0x8B, 0x01], .movR16Rm16 .ax (.mem (.noDisp .bxdi))),
    ([0x8B, 0x02], .movR16Rm16 .ax (.mem (.noDisp .bpsi))),
    ([0x8B, 0x03], .movR16Rm16 .ax (.mem (.noDisp .bpdi))),
    ([0x8B, 0x04], .movR16Rm16 .ax (.mem (.noDisp .si))),
    ([0x8B, 0x05], .movR16Rm16 .ax (.mem (.noDisp .di))),
    ([0x8B, 0x06, 0x00, 0x02], .movR16Rm16 .ax (.mem (.direct 0x0200))),
    ([0x8B, 0x07], .movR16Rm16 .ax (.mem (.noDisp .bx))),
    ([0x8B, 0x46, 0x00], .movR16Rm16 .ax (.mem (.disp8 .bp 0))),
    ([0x8B, 0xC3], .movR16Rm16 .ax (.reg .bx))] = true := by decide

/-- PUSH (R132), POP (R133). -/
theorem test_decode_stack : decodesAll [
    ([0x54], .pushR16 .sp),
    ([0xFF, 0x36, 0x00, 0x02], .pushRm16 (.mem (.direct 0x0200))),
    ([0x5B], .popR16 .bx),
    ([0x8F, 0xC3], .popRm16 (.reg .bx))] = true := by decide

/-- INC, DEC, MUL, DIV, IDIV (R157 to R161), NOT (R184). -/
theorem test_decode_unary : decodesAll [
    ([0x40], .incR16 .ax),
    ([0xFE, 0xC0], .incRm8 (.reg .al)),
    ([0xFF, 0x06, 0x00, 0x02], .incRm16 (.mem (.direct 0x0200))),
    ([0x4F], .decR16 .di),
    ([0xFE, 0x0E, 0x00, 0x02], .decRm8 (.mem (.direct 0x0200))),
    ([0xFF, 0x0F], .decRm16 (.mem (.noDisp .bx))),
    ([0xF6, 0xD0], .notRm8 (.reg .al)),
    ([0xF7, 0x16, 0x00, 0x02], .notRm16 (.mem (.direct 0x0200))),
    ([0xF6, 0xE3], .mulRm8 (.reg .bl)),
    ([0xF7, 0xE3], .mulRm16 (.reg .bx)),
    ([0xF6, 0xF3], .divRm8 (.reg .bl)),
    ([0xF7, 0xF3], .divRm16 (.reg .bx)),
    ([0xF6, 0xFB], .idivRm8 (.reg .bl)),
    ([0xF7, 0x3E, 0x00, 0x02], .idivRm16 (.mem (.direct 0x0200)))] = true := by decide

/-- The conditional jumps (R192 to R207): opcode 70 plus the condition number. -/
theorem test_decode_jcc : decodesAll [
    ([0x70, 0x05], .jo 0x05),
    ([0x71, 0x80], .jno 0x80),
    ([0x72, 0x05], .jb 0x05),
    ([0x73, 0x80], .jnb 0x80),
    ([0x74, 0x05], .je 0x05),
    ([0x75, 0x80], .jne 0x80),
    ([0x76, 0x05], .jbe 0x05),
    ([0x77, 0x80], .jnbe 0x80),
    ([0x78, 0x05], .js 0x05),
    ([0x79, 0x80], .jns 0x80),
    ([0x7A, 0x05], .jp 0x05),
    ([0x7B, 0x80], .jnp 0x80),
    ([0x7C, 0x05], .jl 0x05),
    ([0x7D, 0x80], .jnl 0x80),
    ([0x7E, 0x05], .jle 0x05),
    ([0x7F, 0x80], .jnle 0x80)] = true := by decide

/-- JMP (R191), CALL (R208), RET (R209), LOOP (R210), HLT (R230), NOP (R231). -/
theorem test_decode_control : decodesAll [
    ([0xEB, 0xFE], .jmpRel8 0xFE),
    ([0xE9, 0x00, 0x10], .jmpRel16 0x1000),
    ([0xFF, 0x26, 0x00, 0x02], .jmpRm16 (.mem (.direct 0x0200))),
    ([0xE8, 0xFD, 0xFF], .callRel16 0xFFFD),
    ([0xFF, 0xD0], .callRm16 (.reg .ax)),
    ([0xC3], .ret),
    ([0xC2, 0x04, 0x00], .retImm16 4),
    ([0xE2, 0xFC], .loop 0xFC),
    ([0xF4], .hlt),
    ([0x90], .nop)] = true := by decide

/-- IN, OUT, LOCK, WAIT (R232 to R235): the opcode byte alone. -/
theorem test_decode_rejected : decodesAll [
    ([0xE4], .inAlImm8),
    ([0xE5], .inAxImm8),
    ([0xEC], .inAlDx),
    ([0xED], .inAxDx),
    ([0xE6], .outImm8Al),
    ([0xE7], .outImm8Ax),
    ([0xEE], .outDxAl),
    ([0xEF], .outDxAx),
    ([0xF0], .lock),
    ([0x9B], .wait)] = true := by decide

/-- Refused, with what the fault records (95_test_vectors.md section 2): CLC, ADC, the 82 alias, TEST by group slot, and
bytes that end too soon; an unsupported slot is seen before a missing displacement. -/
theorem test_decode_refuses :
    decode [0xF8] = .error (.opcode 0xF8) ∧ decode [0x10, 0xD8] = .error (.opcode 0x10) ∧
    decode [0x82, 0xC0, 0x01] = .error (.opcode 0x82) ∧ decode [0xF6, 0xC0, 0x01] = .error (.slot 0xF6 0xC0) ∧
    decode [0xB8, 0x05] = .error .truncated ∧ decode [0xF7, 0x1E] = .error (.slot 0xF7 0x1E) := by decide

/-- Words of spec/opcode_table.json, 0xHHLL with the opcode byte high (30_encoding.md section 9, log 6). -/
theorem test_table_words :
    decodeTableWord 16 0x9000 = some .nop ∧ decodeTableWord 16 0x01D8 = some (.addRm16R16 (.reg .ax) .bx) ∧
    decodeTableWord 16 0x8000 = some (.addRm8Imm8 (.mem (.noDisp .bxsi)) 0) ∧ decodeTableWord 16 0xF7D8 = none := by decide

/-! ## One step -/

/-- Registers, all 0. -/
def noRegs : Regs := Regs.atLoad 0

/-- Flags, all false. -/
def noFlags : Flags := Flags.atLoad

/-- The six status flags true, TF, IF and DF false. -/
def allSix : Flags := { noFlags with carry := true, parity := true, aux := true, zero := true, sign := true, overflow := true }

/-- A session after load of an image, changed as a row says (95_test_vectors.md, conventions). -/
def session (memTop base : Word) (image : List Byte) (cells : List (Nat × List Byte)) (regs : Regs) (flags : Flags) :
    State where
  regs := regs
  pc := base
  flags := flags
  mem := cells.foldl (fun m c => m.writeBytes c.1 c.2) (Memory.writeBytes [] base.toNat image)
  status := .running
  steps := 0
  params := { memTop, imageBase := base, imageLen := image.length, spInit := 0, maxSteps := 100 }

/-- One step gives these registers, flags, pc and Status, and memory is as before but for these bytes. -/
def goes (s : State) (regs : Regs) (flags : Flags) (pc : Word) (status : Status) (stores : List (Nat × List Byte)) : Bool :=
  match step s with
  | .next t => decide (t.regs = regs) && decide (t.flags = flags) && decide (t.pc = pc) && decide (t.status = status) &&
      decide (t.mem = stores.foldl (fun m c => m.writeBytes c.1 c.2) s.mem)
  | .fault _ => false
  | .refused _ => false

/-- 95_test_vectors.md: `8B 07`, MOV AX,[BX]. -/
theorem test_mov_word_from_memory :
    goes (session 0xFFFF 0x0000 [0x8B, 0x07] [(0x0100, [0x78, 0x56])] { noRegs with bx := 0x0100 } noFlags)
      { noRegs with ax := 0x5678, bx := 0x0100 } noFlags 0x0002 .running [] = true := by decide

/-- 95_test_vectors.md: `B4 AB`, MOV AH,0xAB. -/
theorem test_mov_high_half :
    goes (session 0xFFFF 0x0000 [0xB4, 0xAB] [] { noRegs with ax := 0x1234 } noFlags)
      { noRegs with ax := 0xAB34 } noFlags 0x0002 .running [] = true := by decide

/-- 95_test_vectors.md: `88 27`, MOV [BX],AH. -/
theorem test_mov_store_byte :
    goes (session 0xFFFF 0x0000 [0x88, 0x27] [] { noRegs with ax := 0xA1B2, bx := 0x0100 } noFlags)
      { noRegs with ax := 0xA1B2, bx := 0x0100 } noFlags 0x0002 .running [(0x0100, [0xA1])] = true := by decide

/-- 95_test_vectors.md: `A0 01 02`, MOV AL,[0x0201]. -/
theorem test_mov_direct_load :
    goes (session 0xFFFF 0x0000 [0xA0, 0x01, 0x02] [(0x0200, [0x0D, 0xF0])] { noRegs with ax := 0x5555 } noFlags)
      { noRegs with ax := 0x55F0 } noFlags 0x0003 .running [] = true := by decide

/-- 95_test_vectors.md: `C7 84 00 01 34 12`, MOV word [SI+0x0100],0x1234. -/
theorem test_mov_immediate_to_memory :
    goes (session 0xFFFF 0x0000 [0xC7, 0x84, 0x00, 0x01, 0x34, 0x12] [] { noRegs with si := 0x0010 } noFlags)
      { noRegs with si := 0x0010 } noFlags 0x0006 .running [(0x0110, [0x34, 0x12])] = true := by decide

/-- 95_test_vectors.md: `8B 07`, MOV AX,[BX]: word at 65535. -/
theorem test_mov_word_at_top_faults :
    goes (session 0xFFFF 0x0000 [0x8B, 0x07] [] { noRegs with ax := 0x1111, bx := 0xFFFF } noFlags)
      { noRegs with ax := 0x1111, bx := 0xFFFF } noFlags 0x0000 (.faulted (.memoryFault 0xFFFF)) [] = true := by decide

/-- 95_test_vectors.md: `A3 FF 00`, MOV [0x00FF],AX: no partial write. -/
theorem test_mov_store_without_part :
    goes (session 0x00FF 0x0000 [0xA3, 0xFF, 0x00] [] { noRegs with ax := 0x1234 } noFlags)
      { noRegs with ax := 0x1234 } noFlags 0x0000 (.faulted (.memoryFault 0x00FF)) [] = true := by decide

/-- 95_test_vectors.md: `53`, PUSH BX. -/
theorem test_push_word :
    goes (session 0xFFFF 0x0000 [0x53] [] { noRegs with bx := 0xBEEF, sp := 0x0101 } noFlags)
      { noRegs with bx := 0xBEEF, sp := 0x00FF } noFlags 0x0001 .running [(0x00FF, [0xEF, 0xBE])] = true := by decide

/-- 95_test_vectors.md: `54`, PUSH SP (stores the new SP). -/
theorem test_push_sp_stores_lowered :
    goes (session 0xFFFF 0x0000 [0x54] [] { noRegs with sp := 0x0100 } noFlags)
      { noRegs with sp := 0x00FE } noFlags 0x0001 .running [(0x00FE, [0xFE, 0x00])] = true := by decide

/-- 95_test_vectors.md: `FF 37`, PUSH word [BX] overlapping the new stack slot: the source is read first. -/
theorem test_push_source_before_slot :
    goes (session 0xFFFF 0x0000 [0xFF, 0x37] [(0x00FF, [0xAA, 0x11, 0x22])] { noRegs with bx := 0x00FF, sp := 0x0102 } noFlags)
      { noRegs with bx := 0x00FF, sp := 0x0100 } noFlags 0x0002 .running [(0x0100, [0xAA, 0x11])] = true := by decide

/-- 95_test_vectors.md: `50`, PUSH AX with SP=1. -/
theorem test_push_at_one_faults :
    goes (session 0xFFFF 0x0000 [0x50] [] { noRegs with ax := 0x1234, sp := 0x0001 } noFlags)
      { noRegs with ax := 0x1234, sp := 0x0001 } noFlags 0x0000 (.faulted (.memoryFault 0xFFFF)) [] = true := by decide

/-- 95_test_vectors.md: `5B`, POP BX. -/
theorem test_pop_word :
    goes (session 0xFFFF 0x0000 [0x5B] [(0x00FE, [0x34, 0x12])] { noRegs with sp := 0x00FE } noFlags)
      { noRegs with bx := 0x1234, sp := 0x0100 } noFlags 0x0001 .running [] = true := by decide

/-- 95_test_vectors.md: `5C`, POP SP. -/
theorem test_pop_sp :
    goes (session 0xFFFF 0x0000 [0x5C] [(0x00FE, [0x00, 0x03])] { noRegs with sp := 0x00FE } noFlags)
      { noRegs with sp := 0x0300 } noFlags 0x0001 .running [] = true := by decide

/-- 95_test_vectors.md: `8F 06 00 20`, POP word [0x2000]: write faults, SP restored. -/
theorem test_pop_write_faults :
    goes (session 0x0FFF 0x0000 [0x8F, 0x06, 0x00, 0x20] [(0x00FE, [0x34, 0x12])] { noRegs with sp := 0x00FE } noFlags)
      { noRegs with sp := 0x00FE } noFlags 0x0000 (.faulted (.memoryFault 0x2000)) [] = true := by decide

/-- 95_test_vectors.md: `01 D8`, ADD AX,BX. -/
theorem test_add_carry :
    goes (session 0xFFFF 0x0000 [0x01, 0xD8] [] { noRegs with ax := 0xFFFF, bx := 0x0001 } noFlags)
      { noRegs with ax := 0x0000, bx := 0x0001 } { noFlags with carry := true, parity := true, aux := true, zero := true } 0x0002 .running [] = true := by decide

/-- 95_test_vectors.md: `01 D8`, ADD AX,BX: signed overflow. -/
theorem test_add_signed_overflow :
    goes (session 0xFFFF 0x0000 [0x01, 0xD8] [] { noRegs with ax := 0x7FFF, bx := 0x0001 } noFlags)
      { noRegs with ax := 0x8000, bx := 0x0001 } { noFlags with parity := true, aux := true, sign := true, overflow := true } 0x0002 .running [] = true := by decide

/-- 95_test_vectors.md: `83 C3 FF`, ADD BX,-1. -/
theorem test_add_sign_extends :
    goes (session 0xFFFF 0x0000 [0x83, 0xC3, 0xFF] [] { noRegs with bx := 0x0005 } noFlags)
      { noRegs with bx := 0x0004 } { noFlags with carry := true, aux := true } 0x0003 .running [] = true := by decide

/-- 95_test_vectors.md: `01 07`, ADD [BX],AX. -/
theorem test_add_memory_word :
    goes (session 0xFFFF 0x0000 [0x01, 0x07] [(0x0100, [0xFF, 0x00])] { noRegs with ax := 0x0001, bx := 0x0100 } noFlags)
      { noRegs with ax := 0x0001, bx := 0x0100 } { noFlags with parity := true, aux := true } 0x0002 .running [(0x0100, [0x00, 0x01])] = true := by decide

/-- 95_test_vectors.md: `01 07`, ADD [BX],AX: out of range, flags kept. -/
theorem test_add_fault_keeps_flags :
    goes (session 0x00FF 0x0000 [0x01, 0x07] [] { noRegs with ax := 0x0001, bx := 0x0100 } allSix)
      { noRegs with ax := 0x0001, bx := 0x0100 } allSix 0x0000 (.faulted (.memoryFault 0x0100)) [] = true := by decide

/-- 95_test_vectors.md: `29 D8`, SUB AX,BX. -/
theorem test_sub_borrow :
    goes (session 0xFFFF 0x0000 [0x29, 0xD8] [] { noRegs with ax := 0x0000, bx := 0x0001 } noFlags)
      { noRegs with ax := 0xFFFF, bx := 0x0001 } { noFlags with carry := true, parity := true, aux := true, sign := true } 0x0002 .running [] = true := by decide

/-- 95_test_vectors.md: `29 D8`, SUB AX,BX: signed overflow. -/
theorem test_sub_signed_overflow :
    goes (session 0xFFFF 0x0000 [0x29, 0xD8] [] { noRegs with ax := 0x8000, bx := 0x0001 } noFlags)
      { noRegs with ax := 0x7FFF, bx := 0x0001 } { noFlags with parity := true, aux := true, overflow := true } 0x0002 .running [] = true := by decide

/-- 95_test_vectors.md: `39 D8`, CMP AX,BX: above but less (signed). -/
theorem test_cmp_above_but_less :
    goes (session 0xFFFF 0x0000 [0x39, 0xD8] [] { noRegs with ax := 0xFFFF, bx := 0x0001 } noFlags)
      { noRegs with ax := 0xFFFF, bx := 0x0001 } { noFlags with sign := true } 0x0002 .running [] = true := by decide

/-- 95_test_vectors.md: `80 3E 00 02 05`, CMP byte [0x0200],5: memory not written. -/
theorem test_cmp_memory_not_written :
    goes (session 0xFFFF 0x0000 [0x80, 0x3E, 0x00, 0x02, 0x05] [(0x0200, [0x03])] noRegs noFlags)
      noRegs { noFlags with carry := true, aux := true, sign := true } 0x0005 .running [] = true := by decide

/-- 95_test_vectors.md: `40`, INC AX. -/
theorem test_inc_writes_carry :
    goes (session 0xFFFF 0x0000 [0x40] [] { noRegs with ax := 0xFFFF } noFlags)
      { noRegs with ax := 0x0000 } { noFlags with carry := true, parity := true, aux := true, zero := true } 0x0001 .running [] = true := by decide

/-- 95_test_vectors.md: `FE C0`, INC AL: AH untouched. -/
theorem test_inc_half :
    goes (session 0xFFFF 0x0000 [0xFE, 0xC0] [] { noRegs with ax := 0x12FF } noFlags)
      { noRegs with ax := 0x1200 } { noFlags with carry := true, parity := true, aux := true, zero := true } 0x0002 .running [] = true := by decide

/-- 95_test_vectors.md: `48`, DEC AX. -/
theorem test_dec_borrows :
    goes (session 0xFFFF 0x0000 [0x48] [] { noRegs with ax := 0x0000 } noFlags)
      { noRegs with ax := 0xFFFF } { noFlags with carry := true, parity := true, aux := true, sign := true } 0x0001 .running [] = true := by decide

/-- 95_test_vectors.md: `FE 0E 00 02`, DEC byte [0x0200]. -/
theorem test_dec_memory_byte :
    goes (session 0xFFFF 0x0000 [0xFE, 0x0E, 0x00, 0x02] [(0x0200, [0x80])] noRegs noFlags)
      noRegs { noFlags with aux := true, overflow := true } 0x0004 .running [(0x0200, [0x7F])] = true := by decide

/-- 95_test_vectors.md: `F6 26 00 02`, MUL byte [0x0200]. -/
theorem test_mul_byte :
    goes (session 0xFFFF 0x0000 [0xF6, 0x26, 0x00, 0x02] [(0x0200, [0x80])] { noRegs with ax := 0x0002 } noFlags)
      { noRegs with ax := 0x0100 } { noFlags with carry := true, overflow := true } 0x0004 .running [] = true := by decide

/-- 95_test_vectors.md: `F7 26 00 02`, MUL word [0x0200]. -/
theorem test_mul_word :
    goes (session 0xFFFF 0x0000 [0xF7, 0x26, 0x00, 0x02] [(0x0200, [0x00, 0x80])] { noRegs with ax := 0x0002 } noFlags)
      { noRegs with ax := 0x0000, dx := 0x0001 } { noFlags with carry := true, overflow := true } 0x0004 .running [] = true := by decide

/-- 95_test_vectors.md: `F6 F3`, DIV BL. -/
theorem test_div_byte :
    goes (session 0xFFFF 0x0000 [0xF6, 0xF3] [] { noRegs with ax := 0x0064, bx := 0x0007 } allSix)
      { noRegs with ax := 0x020E, bx := 0x0007 } allSix 0x0002 .running [] = true := by decide

/-- 95_test_vectors.md: `F6 F3`, DIV BL: quotient 256. -/
theorem test_div_overflow :
    goes (session 0xFFFF 0x0000 [0xF6, 0xF3] [] { noRegs with ax := 0x0100, bx := 0x0001 } noFlags)
      { noRegs with ax := 0x0100, bx := 0x0001 } noFlags 0x0000 (.faulted .divideOverflow) [] = true := by decide

/-- 95_test_vectors.md: `F7 F3`, DIV BX: largest that fits. -/
theorem test_div_word_largest :
    goes (session 0xFFFF 0x0000 [0xF7, 0xF3] [] { noRegs with ax := 0xFFFF, dx := 0x0001, bx := 0x0002 } noFlags)
      { noRegs with ax := 0xFFFF, dx := 0x0001, bx := 0x0002 } noFlags 0x0002 .running [] = true := by decide

/-- 95_test_vectors.md: `F6 36 00 20`, DIV byte [0x2000]: MemoryFault before DivideByZero. -/
theorem test_div_fault_before_zero :
    goes (session 0x0FFF 0x0000 [0xF6, 0x36, 0x00, 0x20] [] { noRegs with ax := 0x0011 } noFlags)
      { noRegs with ax := 0x0011 } noFlags 0x0000 (.faulted (.memoryFault 0x2000)) [] = true := by decide

/-- 95_test_vectors.md: `F6 FB`, IDIV BL: -7 / 2. -/
theorem test_idiv_rounds_toward_zero :
    goes (session 0xFFFF 0x0000 [0xF6, 0xFB] [] { noRegs with ax := 0xFFF9, bx := 0x0002 } noFlags)
      { noRegs with ax := 0xFFFD, bx := 0x0002 } noFlags 0x0002 .running [] = true := by decide

/-- 95_test_vectors.md: `F6 FB`, IDIV BL: -128 / 1 overflows (symmetric range). -/
theorem test_idiv_symmetric_range :
    goes (session 0xFFFF 0x0000 [0xF6, 0xFB] [] { noRegs with ax := 0xFF80, bx := 0x0001 } noFlags)
      { noRegs with ax := 0xFF80, bx := 0x0001 } noFlags 0x0000 (.faulted .divideOverflow) [] = true := by decide

/-- 95_test_vectors.md: `F7 FB`, IDIV BX: -100000 / 7. -/
theorem test_idiv_word_negative :
    goes (session 0xFFFF 0x0000 [0xF7, 0xFB] [] { noRegs with ax := 0x7960, dx := 0xFFFE, bx := 0x0007 } noFlags)
      { noRegs with ax := 0xC833, dx := 0xFFFB, bx := 0x0007 } noFlags 0x0002 .running [] = true := by decide

/-- 95_test_vectors.md: `F7 FB`, IDIV BX: by zero. -/
theorem test_idiv_by_zero :
    goes (session 0xFFFF 0x0000 [0xF7, 0xFB] [] { noRegs with ax := 0x0001, dx := 0x0000, bx := 0x0000 } noFlags)
      { noRegs with ax := 0x0001, dx := 0x0000, bx := 0x0000 } noFlags 0x0000 (.faulted .divideByZero) [] = true := by decide

/-- 95_test_vectors.md: `21 C0`, AND AX,AX. -/
theorem test_and_keeps_aux :
    goes (session 0xFFFF 0x0000 [0x21, 0xC0] [] { noRegs with ax := 0x8001 } { noFlags with carry := true, aux := true, overflow := true })
      { noRegs with ax := 0x8001 } { noFlags with aux := true, sign := true } 0x0002 .running [] = true := by decide

/-- 95_test_vectors.md: `83 E3 F0`, AND BX,0xFFF0. -/
theorem test_and_sign_extends :
    goes (session 0xFFFF 0x0000 [0x83, 0xE3, 0xF0] [] { noRegs with bx := 0x1234 } noFlags)
      { noRegs with bx := 0x1230 } { noFlags with parity := true } 0x0003 .running [] = true := by decide

/-- 95_test_vectors.md: `0C 80`, OR AL,0x80. -/
theorem test_or_byte :
    goes (session 0xFFFF 0x0000 [0x0C, 0x80] [] { noRegs with ax := 0x0001 } noFlags)
      { noRegs with ax := 0x0081 } { noFlags with parity := true, sign := true } 0x0002 .running [] = true := by decide

/-- 95_test_vectors.md: `31 C0`, XOR AX,AX. -/
theorem test_xor_self :
    goes (session 0xFFFF 0x0000 [0x31, 0xC0] [] { noRegs with ax := 0x1234 } { noFlags with carry := true, aux := true, sign := true, overflow := true })
      { noRegs with ax := 0x0000 } { noFlags with parity := true, aux := true, zero := true } 0x0002 .running [] = true := by decide

/-- 95_test_vectors.md: `F6 D0`, NOT AL. -/
theorem test_not_writes_flags :
    goes (session 0xFFFF 0x0000 [0xF6, 0xD0] [] { noRegs with ax := 0x120F } { noFlags with carry := true, aux := true })
      { noRegs with ax := 0x12F0 } { noFlags with parity := true, aux := true, sign := true } 0x0002 .running [] = true := by decide

/-- 95_test_vectors.md: `F7 16 00 02`, NOT word [0x0200]. -/
theorem test_not_memory_word :
    goes (session 0xFFFF 0x0000 [0xF7, 0x16, 0x00, 0x02] [(0x0200, [0x0F, 0xF0])] noRegs noFlags)
      noRegs { noFlags with parity := true } 0x0004 .running [(0x0200, [0xF0, 0x0F])] = true := by decide

/-- 95_test_vectors.md: `EB 80`, JMP -128 from 0: wraps to 0xFF82. -/
theorem test_jmp_wraps :
    goes (session 0xFFFF 0x0000 [0xEB, 0x80] [] noRegs noFlags)
      noRegs noFlags 0xFF82 .running [] = true := by decide

/-- 95_test_vectors.md: `FF 26 00 02`, JMP [0x0200]. -/
theorem test_jmp_indirect :
    goes (session 0xFFFF 0x0000 [0xFF, 0x26, 0x00, 0x02] [(0x0200, [0x34, 0x12])] noRegs noFlags)
      noRegs noFlags 0x1234 .running [] = true := by decide

/-- 95_test_vectors.md: `76 05`, JBE +5: CF alone suffices. -/
theorem test_jbe_carry_alone :
    goes (session 0xFFFF 0x0000 [0x76, 0x05] [] noRegs { noFlags with carry := true })
      noRegs { noFlags with carry := true } 0x0007 .running [] = true := by decide

/-- 95_test_vectors.md: `77 05`, JNBE +5: ZF alone blocks. -/
theorem test_jnbe_zero_blocks :
    goes (session 0xFFFF 0x0000 [0x77, 0x05] [] noRegs { noFlags with zero := true })
      noRegs { noFlags with zero := true } 0x0002 .running [] = true := by decide

/-- 95_test_vectors.md: `7E 05`, JLE +5: ZF alone suffices. -/
theorem test_jle_zero_alone :
    goes (session 0xFFFF 0x0000 [0x7E, 0x05] [] noRegs { noFlags with zero := true, sign := true, overflow := true })
      noRegs { noFlags with zero := true, sign := true, overflow := true } 0x0007 .running [] = true := by decide

/-- 95_test_vectors.md: `74 80`, JE -128, taken: target 0xFF82 outside the window. -/
theorem test_je_far_back :
    goes (session 0xFFFF 0x0000 [0x74, 0x80] [] noRegs { noFlags with zero := true })
      noRegs { noFlags with zero := true } 0xFF82 .running [] = true := by decide

/-- 95_test_vectors.md: `E8 03 00 90 90 90 C3`, CALL +3. -/
theorem test_call_pushes_next :
    goes (session 0xFFFF 0x0000 [0xE8, 0x03, 0x00, 0x90, 0x90, 0x90, 0xC3] [] { noRegs with sp := 0x0100 } allSix)
      { noRegs with sp := 0x00FE } allSix 0x0006 .running [(0x00FE, [0x03, 0x00])] = true := by decide

/-- 95_test_vectors.md: `FF D4`, CALL SP: target is SP before the push. -/
theorem test_call_sp_target :
    goes (session 0xFFFF 0x0000 [0xFF, 0xD4] [] { noRegs with sp := 0x0100 } noFlags)
      { noRegs with sp := 0x00FE } noFlags 0x0100 .running [(0x00FE, [0x02, 0x00])] = true := by decide

/-- 95_test_vectors.md: `FF 16 FE 00`, CALL [0x00FE]: target read before the push overwrites it. -/
theorem test_call_target_before_push :
    goes (session 0xFFFF 0x0000 [0xFF, 0x16, 0xFE, 0x00] [(0x00FE, [0x50, 0x00])] { noRegs with sp := 0x0100 } noFlags)
      { noRegs with sp := 0x00FE } noFlags 0x0050 .running [(0x00FE, [0x04, 0x00])] = true := by decide

/-- 95_test_vectors.md: `C3`, RET. -/
theorem test_ret_pops :
    goes (session 0xFFFF 0x0000 [0xC3] [(0x00FE, [0x34, 0x12])] { noRegs with sp := 0x00FE } noFlags)
      { noRegs with sp := 0x0100 } noFlags 0x1234 .running [] = true := by decide

/-- 95_test_vectors.md: `C2 FF FF`, RET 0xFFFF: SP wraps. -/
theorem test_ret_releases :
    goes (session 0xFFFF 0x0000 [0xC2, 0xFF, 0xFF] [(0x00FE, [0x34, 0x12])] { noRegs with sp := 0x00FE } noFlags)
      { noRegs with sp := 0x00FF } noFlags 0x1234 .running [] = true := by decide

/-- 95_test_vectors.md: `E2 FE`, LOOP $: CX=0 wraps to 0xFFFF and jumps. -/
theorem test_loop_wraps :
    goes (session 0xFFFF 0x0000 [0xE2, 0xFE] [] { noRegs with cx := 0x0000 } noFlags)
      { noRegs with cx := 0xFFFF } noFlags 0x0000 .running [] = true := by decide

/-- 95_test_vectors.md: `E2 FE`, LOOP $: CX=1 falls through, ZF not set. -/
theorem test_loop_ends :
    goes (session 0xFFFF 0x0000 [0xE2, 0xFE] [] { noRegs with cx := 0x0001 } noFlags)
      { noRegs with cx := 0x0000 } noFlags 0x0002 .running [] = true := by decide

/-- 95_test_vectors.md: `F4`, HLT. -/
theorem test_hlt :
    goes (session 0xFFFF 0x0000 [0xF4] [] noRegs allSix)
      noRegs allSix 0x0001 (.halted .hltExecuted) [] = true := by decide

/-- 95_test_vectors.md: `90`, NOP. -/
theorem test_nop :
    goes (session 0xFFFF 0x0000 [0x90] [] noRegs allSix)
      noRegs allSix 0x0001 .running [] = true := by decide

/-- 95_test_vectors.md: `E4 60 F4`, IN AL,0x60. -/
theorem test_in_raises :
    goes (session 0xFFFF 0x0000 [0xE4, 0x60, 0xF4] [] { noRegs with ax := 0x1111, dx := 0x0060 } noFlags)
      { noRegs with ax := 0x1111, dx := 0x0060 } noFlags 0x0000 (.faulted (.unsupportedInstruction (.opcode 0xE4))) [] = true := by decide

/-- 95_test_vectors.md: `E6 80 F4`, OUT 0x80,AL. -/
theorem test_out_raises :
    goes (session 0xFFFF 0x0000 [0xE6, 0x80, 0xF4] [] { noRegs with ax := 0x1111, dx := 0x0060 } noFlags)
      { noRegs with ax := 0x1111, dx := 0x0060 } noFlags 0x0000 (.faulted (.unsupportedInstruction (.opcode 0xE6))) [] = true := by decide

/-- 95_test_vectors.md: `F0 01 D8 F4`, LOCK ADD AX,BX. -/
theorem test_lock_raises :
    goes (session 0xFFFF 0x0000 [0xF0, 0x01, 0xD8, 0xF4] [] { noRegs with ax := 0x1111, dx := 0x0060 } noFlags)
      { noRegs with ax := 0x1111, dx := 0x0060 } noFlags 0x0000 (.faulted (.unsupportedInstruction (.opcode 0xF0))) [] = true := by decide

/-- 95_test_vectors.md: `9B F4`, WAIT. -/
theorem test_wait_raises :
    goes (session 0xFFFF 0x0000 [0x9B, 0xF4] [] { noRegs with ax := 0x1111, dx := 0x0060 } noFlags)
      { noRegs with ax := 0x1111, dx := 0x0060 } noFlags 0x0000 (.faulted (.unsupportedInstruction (.opcode 0x9B))) [] = true := by decide

/-- 95_test_vectors.md: `B8 05`, MOV AX,imm16 cut by the end of the image. -/
theorem test_truncated_by_window :
    goes (session 0xFFFF 0x0000 [0xB8, 0x05] [(0x0002, [0x77])] noRegs noFlags)
      noRegs noFlags 0x0000 (.faulted (.unsupportedInstruction .truncated)) [] = true := by decide

/-- A word placed by `withFetchWord` is what the next step runs, also as the first step after reset. -/
theorem test_placed_word_runs :
    goes (State.reset.withFetchWord 16 0x9000) noRegs noFlags 1 .running [] = true ∧
    goes (State.reset.withFetchWord 16 0xF400) noRegs noFlags 1 (.halted .hltExecuted) [] = true ∧
    goes (State.reset.withFetchWord 16 0xE400) noRegs noFlags 0
      (.faulted (.unsupportedInstruction (.opcode 0xE4))) [] = true := by decide

/-- Writing 0 removes a cell, writing below keeps the order: equal memories are equal lists (log 8). -/
theorem test_memory_is_canonical :
    Memory.write [(3, 7), (5, 9)] 3 0 = [(5, 9)] ∧ Memory.write [(3, 7), (5, 9)] 4 1 = [(3, 7), (4, 1), (5, 9)] ∧
    Memory.write [(3, 7)] 9 0 = [(3, 7)] ∧ Memory.wf (Memory.writeWord [] 0x10 0x1234) := by decide

/-- Programs P6b and P6c of 95_test_vectors.md in small: HLT within the budget halts, a jump to itself uses it up. -/
theorem test_run_ends :
    (match run 5 (session 0xFFFF 0 [0xF4] [] noRegs noFlags) with
      | .next t => decide (t.status = .halted .hltExecuted ∧ t.steps = 1)
      | .fault _ => false
      | .refused _ => false) = true ∧
    (match run 3 (session 0xFFFF 0 [0xEB, 0xFE] [] noRegs noFlags) with
      | .next t => decide (t.status = .faulted .stepLimitExceeded ∧ t.steps = 3)
      | .fault _ => false
      | .refused _ => false) = true := by decide

/-! ## Witnesses: states and operands that meet the hypotheses of each obligation, clause by clause -/

/-- Memory of 256 bytes, an image of four bytes at 0x10, the given bytes in it. -/
def small (image : List Byte) (regs : Regs) : State := session 0xFF 0x10 image [] regs noFlags

/-- One HLT at 0x10, registers 0. -/
def smallHlt : State := small [0xF4] noRegs

/-- For DecodeOfEncode, DecodedBytesAreTheEncoding, DecodedLengthIsBytesConsumed, CutEncodingsAreTruncated: the longest
instruction, well formed, decoded with a byte left, cut after its last byte but one. -/
theorem witness_decoding :
    (Instr.addRm16Imm16 (.mem (.direct 0x1234)) 0x5678).wf = true ∧
    decode [0x81, 0x06, 0x34, 0x12, 0x78, 0x56, 0x90] = .ok (.addRm16Imm16 (.mem (.direct 0x1234)) 0x5678, [0x90]) ∧
    5 < (Instr.addRm16Imm16 (.mem (.direct 0x1234)) 0x5678).len := by decide

/-- For UnsupportedEncodingsAreRefused and SpecWordsDecode: first and last of each list. -/
theorem witness_lists :
    0x06 ∈ unsupportedOpcodes ∧ 0xFD ∈ unsupportedOpcodes ∧ unsupportedOpcodes.length = 120 ∧
    (0x80, [2, 3]) ∈ unsupportedSlots ∧ regField 0xD0 ∈ [2, 3] ∧
    ([0x90], .nop) ∈ specWords ∧ ([0x03, 0xC3], .addR16Rm16 .ax (.reg .bx)) ∈ specWords := by decide

/-- For MemReadChecksAndReads, MemWriteChecksAndStores, MemoryIsLittleEndian: the last byte and the last word inside a
memory of 256 bytes, and the first outside. -/
theorem witness_memory_bounds :
    smallHlt.mem.wf ∧ (0xFF : Word).toNat < smallHlt.memSize ∧ smallHlt.memSize ≤ (0x100 : Word).toNat ∧
    (0xFE : Word).toNat + 1 < smallHlt.memSize ∧ smallHlt.memSize ≤ (0xFF : Word).toNat + 1 := by decide

/-- For ResultFlagsAreSignZeroParity, FlagsAfterAddition, FlagsAfterSubtraction, FlagsAfterLogic: both widths. -/
theorem witness_widths : (8 = 8 ∨ 8 = 16) ∧ (16 = 8 ∨ 16 = 16) := by decide

/-- For AddWritesSumAndFlags, SubWritesDifferenceAndFlags, CmpSetsFlagsOnly, AndWritesBitwiseAnd, OrWritesBitwiseOr,
XorWritesBitwiseXor, IncAddsOne, DecSubtractsOne, NotComplementsAndSetsFlags, MovCopiesSourceToDestination,
JumpsAfterCompareCompareTheValues, and for the clauses of MulWritesExactProduct and JmpSetsPc: a byte and a word operand at the last address inside memory and a register,
each with a source in range, and at the first address outside. -/
theorem witness_operands :
    inRange8 smallHlt (.reg .ah) = true ∧ inRange8 smallHlt (.mem (.direct 0xFF)) = true ∧
    inRange16 smallHlt (.reg .sp) = true ∧ inRange16 smallHlt (.mem (.direct 0xFE)) = true ∧
    srcInRange8 smallHlt (.rm (.reg .bl)) = true ∧ srcInRange8 smallHlt (.rm (.mem (.direct 0xFF))) = true ∧
    srcInRange8 smallHlt (.imm 1) = true ∧ srcInRange16 smallHlt (.rm (.mem (.direct 0xFE))) = true ∧
    srcInRange16 smallHlt (.imm 1) = true ∧
    smallHlt.memSize ≤ (effAddr smallHlt.regs (.direct 0x100)).toNat ∧
    smallHlt.memSize ≤ (effAddr smallHlt.regs (.direct 0xFF)).toNat + 1 := by decide

/-- For DivWritesQuotientAndRemainder, byte form: divisor 0; the smallest quotient that does not fit, 256; the largest that
fits, 255 (41_arithmetic.md R160). -/
theorem witness_div_byte :
    inRange8 smallHlt (.reg .bl) = true ∧ (value8 smallHlt (.reg .bl)).toNat = 0 ∧
    (let s := small [0xF6, 0xF3] { noRegs with ax := 0x0100, bx := 1 };
      (value8 s (.reg .bl)).toNat ≠ 0 ∧ 255 < s.regs.ax.toNat / (value8 s (.reg .bl)).toNat) ∧
    (let s := small [0xF6, 0xF3] { noRegs with ax := 0x00FF, bx := 1 };
      (value8 s (.reg .bl)).toNat ≠ 0 ∧ s.regs.ax.toNat / (value8 s (.reg .bl)).toNat ≤ 255) := by decide

/-- The same for the word form: 65536 and 65535. -/
theorem witness_div_word :
    inRange16 smallHlt (.reg .bx) = true ∧ (value16 smallHlt (.reg .bx)).toNat = 0 ∧
    (let s := small [0xF7, 0xF3] { noRegs with dx := 1, bx := 1 };
      (value16 s (.reg .bx)).toNat ≠ 0 ∧
        65535 < (s.regs.dx.toNat * 65536 + s.regs.ax.toNat) / (value16 s (.reg .bx)).toNat) ∧
    (let s := small [0xF7, 0xF3] { noRegs with ax := 0xFFFF, bx := 1 };
      (value16 s (.reg .bx)).toNat ≠ 0 ∧
        (s.regs.dx.toNat * 65536 + s.regs.ax.toNat) / (value16 s (.reg .bx)).toNat ≤ 65535) := by decide

/-- A session with this AX, and BL = 1. -/
def overOne8 (ax : Word) : State := small [0xF6, 0xFB] { noRegs with ax := ax, bx := 1 }

/-- The signed quotient of AX by BL. -/
def quotient8 (s : State) : Int := s.regs.ax.toInt.tdiv (value8 s (.reg .bl)).toInt

/-- For IdivWritesSignedQuotientAndRemainder, byte form: divisor 0; quotients -128 and 128 outside, -127 and 127 inside the
symmetric range (41_arithmetic.md R161). -/
theorem witness_idiv_byte :
    (value8 smallHlt (.reg .bl)).toInt = 0 ∧ (value8 (overOne8 0xFF80) (.reg .bl)).toInt ≠ 0 ∧
    quotient8 (overOne8 0xFF80) = -128 ∧ quotient8 (overOne8 0x0080) = 128 ∧
    quotient8 (overOne8 0xFF81) = -127 ∧ quotient8 (overOne8 0x007F) = 127 := by decide

/-- A session with this DX and AX, and BX = 1. -/
def overOne16 (dx ax : Word) : State := small [0xF7, 0xFB] { noRegs with dx := dx, ax := ax, bx := 1 }

/-- The signed quotient of DX and AX by BX. -/
def quotient16 (s : State) : Int := (s.regs.dx ++ s.regs.ax : BitVec 32).toInt.tdiv (value16 s (.reg .bx)).toInt

/-- The same for the word form: -32768 and 32768 outside, -32767 and 32767 inside. -/
theorem witness_idiv_word :
    (value16 smallHlt (.reg .bx)).toInt = 0 ∧ (value16 (overOne16 0 0) (.reg .bx)).toInt ≠ 0 ∧
    quotient16 (overOne16 0xFFFF 0x8000) = -32768 ∧ quotient16 (overOne16 0 0x8000) = 32768 ∧
    quotient16 (overOne16 0xFFFF 0x8001) = -32767 ∧ quotient16 (overOne16 0 0x7FFF) = 32767 := by decide

/-- An outcome is a next state with this Status. -/
def endsIn (r : Host.Outcome State Fault Refusal) (st : Status) : Bool :=
  match r with
  | .next t => decide (t.status = st)
  | .fault _ => false
  | .refused _ => false

/-- The same as a statement. -/
theorem ends_in_next {r : Host.Outcome State Fault Refusal} {st : Status} (h : endsIn r st = true) :
    ∃ t, r = .next t ∧ t.status = st := by
  cases r with
  | next t => exact ⟨t, rfl, of_decide_eq_true h⟩
  | fault f => cases h
  | refused f => cases h

/-- AX = 7, DX = 0, BX = 2. -/
def sevenByTwo : State := small [0xF4] { noRegs with ax := 7, bx := 2 }

/-- For MultiplyAndDivideLaws: each of the six instructions completes on a Running session and leaves it Running. -/
theorem witness_multiply_divide :
    sevenByTwo.status = .running ∧
    (∃ t, exec (.mulRm8 (.reg .bl)) sevenByTwo = .next t ∧ t.status = .running) ∧
    (∃ t, exec (.mulRm16 (.reg .bx)) sevenByTwo = .next t ∧ t.status = .running) ∧
    (∃ t, exec (.divRm8 (.reg .bl)) sevenByTwo = .next t ∧ t.status = .running) ∧
    (∃ t, exec (.divRm16 (.reg .bx)) sevenByTwo = .next t ∧ t.status = .running) ∧
    (∃ t, exec (.idivRm8 (.reg .bl)) sevenByTwo = .next t ∧ t.status = .running) ∧
    (∃ t, exec (.idivRm16 (.reg .bx)) sevenByTwo = .next t ∧ t.status = .running) :=
  ⟨rfl, ends_in_next (by decide), ends_in_next (by decide), ends_in_next (by decide), ends_in_next (by decide),
    ends_in_next (by decide), ends_in_next (by decide)⟩

/-- For PushStoresBelowStackTop and CallPushesReturnAddress: a slot that ends at the last byte of memory, and the next one
up; with a source in range, and one out of range. -/
theorem witness_push_call :
    (let s := small [0xF4] { noRegs with sp := 0x100 };
      (s.regs.sp - 2).toNat + 1 < s.memSize ∧ inRange16 s (.mem (.direct 0xFE)) = true ∧
        s.memSize ≤ (effAddr s.regs (.direct 0xFF)).toNat + 1) ∧
    (let s := small [0xF4] { noRegs with sp := 0x101 };
      s.memSize ≤ (s.regs.sp - 2).toNat + 1 ∧ inRange16 s (.reg .ax) = true) := by decide

/-- For PopLoadsFromStackTop and RetPopsPc: the last slot of memory, with a destination in range and one out of range, and
the next slot up. -/
theorem witness_pop_ret :
    (let s := small [0xF4] { noRegs with sp := 0xFE };
      s.regs.sp.toNat + 1 < s.memSize ∧ (effAddr s.regs (.direct 0xFE)).toNat + 1 < s.memSize ∧
        s.memSize ≤ (effAddr s.regs (.direct 0xFF)).toNat + 1) ∧
    (let s := small [0xF4] { noRegs with sp := 0xFF };
      s.memSize ≤ s.regs.sp.toNat + 1) := by decide

/-- For UnsignedConditionalJumps: flags on which each condition holds, and on which it does not. -/
theorem witness_unsigned_jumps :
    allSix.overflow = true ∧ noFlags.overflow = false ∧ allSix.carry = true ∧ noFlags.carry = false ∧
    allSix.zero = true ∧ noFlags.zero = false ∧ (allSix.carry = true ∨ allSix.zero = true) ∧
    ¬ (noFlags.carry = true ∨ noFlags.zero = true) ∧ (noFlags.carry = false ∧ noFlags.zero = false) ∧
    ¬ (allSix.carry = false ∧ allSix.zero = false) := by decide

/-- For SignedConditionalJumps, likewise. -/
theorem witness_signed_jumps :
    allSix.sign = true ∧ noFlags.sign = false ∧ allSix.parity = true ∧ noFlags.parity = false ∧
    ({ noFlags with sign := true } : Flags).sign ≠ ({ noFlags with sign := true } : Flags).overflow ∧
    allSix.sign = allSix.overflow ∧ (allSix.zero = true ∨ allSix.sign ≠ allSix.overflow) ∧
    ¬ (noFlags.zero = true ∨ noFlags.sign ≠ noFlags.overflow) ∧ (noFlags.zero = false ∧ noFlags.sign = noFlags.overflow) ∧
    ¬ (allSix.zero = false ∧ allSix.sign = allSix.overflow) := by decide

/-- For LoopCountsCxDown: CX = 1, and CX = 0, which jumps. -/
theorem witness_loop : ({ noRegs with cx := 1 } : Regs).cx = 1 ∧ noRegs.cx ≠ 1 := by decide

/-- For RegisterFrame, FlagFrame and MemoryFrame: MOV [0x80], AX runs; AL, CF and the byte after the word are outside its
tables. -/
theorem witness_frames :
    (∃ t, exec (.movMoffsAx 0x80) smallHlt = .next t ∧ t.status = .running) ∧ (Reg16.ax, false) ∉ instrHalves (.movMoffsAx 0x80) ∧
    FlagName.cf ∉ instrFlags (.movMoffsAx 0x80) ∧ 0x82 ∉ instrCells smallHlt (.movMoffsAx 0x80) :=
  ⟨ends_in_next (by decide), by decide, by decide, by decide⟩

/-- For ControlFlagsHaveNoEffect, FaultsArePrecise and StepKeepsInvariant: a session that meets the invariant, Running, and
whose step faults. -/
theorem witness_step :
    let s := small [0x8B, 0x06, 0xFF, 0x00] noRegs
    Inv s ∧ s.status = .running ∧ ∃ t, step s = .next t ∧ t.status = .faulted (.memoryFault 0xFF) :=
  ⟨⟨by decide, by decide, by decide, by decide⟩, rfl, ends_in_next (by decide)⟩

/-- For StepKeepsInvariant: a session that meets the invariant and whose step stores into memory. -/
theorem witness_step_stores :
    let s := small [0xA3, 0x80, 0x00] { noRegs with ax := 0x1234 }
    Inv s ∧ goes s s.regs noFlags 0x13 .running [(0x80, [0x34, 0x12])] = true :=
  ⟨⟨by decide, by decide, by decide, by decide⟩, by decide⟩

/-- For StepRunsDecodedInstruction and StepRunsTheBytesAtPc: HLT as the last byte of the window, budget left. -/
theorem witness_step_runs :
    smallHlt.status = .running ∧ smallHlt.inWindow = true ∧ smallHlt.steps ≠ smallHlt.params.maxSteps ∧
    decode smallHlt.fetch = .ok (.hlt, []) ∧ Instr.hlt.wf = true ∧
    smallHlt.params.imageBase.toNat ≤ smallHlt.pc.toNat ∧
    smallHlt.pc.toNat + Instr.hlt.len ≤ smallHlt.params.imageBase.toNat + smallHlt.params.imageLen ∧
    (∀ k, k < Instr.hlt.len → (encode .hlt)[k]? = some (smallHlt.mem.read (smallHlt.pc.toNat + k))) := by decide

/-- For UndecodableBytesFault: CLC, and an instruction cut by the end of the window. -/
theorem witness_undecodable :
    (∀ image ∈ [[(0xF8 : Byte)], [0xB8, 0x05]], let s := small image noRegs;
      s.status = .running ∧ s.inWindow = true ∧ s.steps ≠ s.params.maxSteps) ∧
    decode (small [0xF8] noRegs).fetch = .error (.opcode 0xF8) ∧
    decode (small [0xB8, 0x05] noRegs).fetch = .error .truncated := by decide

/-- For LoopChecksInOrder: a halted session; pc just below the base, and at the end of the image; a used budget with pc
inside. -/
theorem witness_loop_checks :
    ({ smallHlt with status := .halted .hltExecuted } : State).status ≠ .running ∧ smallHlt.status = .running ∧
    (0x0F : Word).toNat < smallHlt.params.imageBase.toNat ∧
    smallHlt.params.imageBase.toNat + smallHlt.params.imageLen ≤ (0x11 : Word).toNat ∧
    smallHlt.params.imageBase.toNat ≤ smallHlt.pc.toNat ∧
    smallHlt.pc.toNat < smallHlt.params.imageBase.toNat + smallHlt.params.imageLen ∧ smallHlt.params.maxSteps = 100 := by
  decide

/-- The four checks end as the statement says: left alone, halted below and above the window, budget used. -/
theorem witness_loop_checks_outcomes :
    endsIn (step { smallHlt with status := .halted .hltExecuted }) (.halted .hltExecuted) = true ∧
    endsIn (step { smallHlt with pc := 0x0F }) (.halted .endOfProgram) = true ∧
    endsIn (step { smallHlt with pc := 0x11 }) (.halted .endOfProgram) = true ∧
    endsIn (step { smallHlt with steps := 100 }) (.faulted .stepLimitExceeded) = true := by decide

/-- For TerminalStatesAreNeverLeft: both kinds of terminal status. -/
theorem witness_terminal :
    (Status.halted .endOfProgram).terminal = true ∧ (Status.faulted .divideByZero).terminal = true := by decide

/-- For StatusTransitions: the step of a Running session with HLT at pc halts. -/
theorem witness_transitions :
    smallHlt.status = .running ∧ ∃ t, step smallHlt = .next t ∧ t.status = .halted .hltExecuted :=
  ⟨rfl, ends_in_next (by decide)⟩

/-- For FaultReasonsAndTheirRaisers: Running sessions on which an instruction ends in each kind of Status. -/
theorem witness_fault_reasons :
    smallHlt.status = .running ∧
    (∃ t, exec .nop smallHlt = .next t ∧ t.status = .running) ∧
    (∃ t, exec .hlt smallHlt = .next t ∧ t.status = .halted .hltExecuted) ∧
    (∃ t, exec (.movAxMoffs 0xFF) smallHlt = .next t ∧ t.status = .faulted (.memoryFault 0xFF)) ∧
    (∃ t, exec (.divRm8 (.reg .bl)) smallHlt = .next t ∧ t.status = .faulted .divideByZero) ∧
    (∃ t, exec (.idivRm16 (.reg .bx)) (small [0xF4] { noRegs with ax := 0x8000, bx := 1 }) = .next t ∧
      t.status = .faulted .divideOverflow) ∧
    (∃ t, exec .lock smallHlt = .next t ∧ t.status = .faulted (.unsupportedInstruction (.opcode 0xF0))) :=
  ⟨rfl, ends_in_next (by decide), ends_in_next (by decide), ends_in_next (by decide), ends_in_next (by decide),
    ends_in_next (by decide), ends_in_next (by decide)⟩

/-- For its MemoryFault clause, at the end of memory: a byte at 0xFF is in range and a word is not; NOP has no access; PUSH
[mem] looks at its operand before the slot, POP [mem] at the slot before its operand (60_exceptions.md R259). -/
theorem witness_first_outside :
    firstOutside smallHlt (.movAlMoffs 0xFF) = none ∧ firstOutside smallHlt (.movAxMoffs 0xFF) = some 0xFF ∧
    firstOutside smallHlt (.movAlMoffs 0x100) = some 0x100 ∧ firstOutside smallHlt (.movAxMoffs 0xFE) = none ∧
    firstOutside smallHlt .nop = none ∧ firstOutside smallHlt (.pushRm16 (.mem (.direct 0x200))) = some 0x200 ∧
    firstOutside smallHlt (.pushRm16 (.mem (.direct 0x20))) = some 0xFFFE ∧
    firstOutside (small [0xF4] { noRegs with sp := 0xFF }) (.popRm16 (.mem (.direct 0x200))) = some 0xFF ∧
    firstOutside smallHlt (.popRm16 (.mem (.direct 0x200))) = some 0x200 := by decide

/-- For StoreIsSeenByNextFetch: a byte store, the high byte of a word store and of a push, each to the last byte of the
window; the instruction completes. -/
theorem witness_store_fetch :
    smallHlt.mem.wf ∧ smallHlt.params.imageBase.toNat ≤ (0x10 : Word).toNat ∧ (0x10 : Word).toNat < smallHlt.imageEnd ∧
    (∃ t, exec (.movRm8Imm8 (.mem (.direct 0x10)) 0x90) smallHlt = .next t ∧ t.status = .running) ∧
    ((0x10 : Word).toNat, 0x90) ∈ instrStores smallHlt (.movRm8Imm8 (.mem (.direct 0x10)) 0x90) ∧
    (∃ t, exec (.addRm16Imm16 (.mem (.direct 0x0F)) 0x0100) smallHlt = .next t ∧ t.status = .running) ∧
    ((0x10 : Word).toNat, 0xF5) ∈ instrStores smallHlt (.addRm16Imm16 (.mem (.direct 0x0F)) 0x0100) ∧
    (let s := small [0xF4] { noRegs with sp := 0x11, ax := 0x1234 };
      (∃ t, exec (.pushR16 .ax) s = .next t ∧ t.status = .running) ∧
        ((0x10 : Word).toNat, 0x12) ∈ instrStores s (.pushR16 .ax)) :=
  ⟨by decide, by decide, by decide, ends_in_next (by decide), by decide, ends_in_next (by decide), by decide,
    ends_in_next (by decide), by decide⟩

/-- For LoadGivesFreshSession: an image that just fits, one byte more, and a session with the same parameters. -/
theorem witness_load :
    (0xFF : Word).toNat + 1 < (0xFE : Word).toNat + [(0x90 : Byte), 0x90, 0xF4].length ∧
    (0xFE : Word).toNat + [(0x90 : Byte), 0xF4].length ≤ (0xFF : Word).toNat + 1 ∧
    smallHlt.params.memTop = 0xFF ∧ smallHlt.params.spInit = 0 ∧ smallHlt.params.maxSteps = 100 := by decide

/-- For RunEndsTerminal: a budget of exactly the steps already begun. -/
theorem witness_run : smallHlt.steps ≤ 0 := by decide

end Sys2Proof.Tests
end

section
/-! Family `10_state.md`. A write to a byte half is a mask and an or on its register: the model joins two bytes, the rule
R23 masks and shifts, and the two agree byte by byte. -/

namespace Sys2Proof.Machine

/-! ## Joined bytes under the bitwise operations -/

theorem joinBytes_and_joinBytes (h l h' l' : Byte) :
    joinBytes h l &&& joinBytes h' l' = joinBytes (h &&& h') (l &&& l') := BitVec.and_append

theorem joinBytes_or_joinBytes (h l h' l' : Byte) :
    joinBytes h l ||| joinBytes h' l' = joinBytes (h ||| h') (l ||| l') := BitVec.or_append

theorem setWidth_eq_joinBytes (v : Byte) : v.setWidth 16 = joinBytes 0#8 v :=
  BitVec.setWidth_eq_append (by decide)

theorem setWidth_shiftLeft_eq_joinBytes (v : Byte) : v.setWidth 16 <<< 8 = joinBytes v 0#8 := by
  have hlow : (v.setWidth 16).setWidth 8 = v := BitVec.setWidth_setWidth_of_le v (by decide)
  calc v.setWidth 16 <<< 8
      = joinBytes ((v.setWidth 16).setWidth 8) 0#8 := BitVec.shiftLeft_eq_concat_of_lt (by decide)
    _ = joinBytes v 0#8 := by rw [hlow]

/-- The word with its low byte replaced, in the form of R23. -/
theorem joinBytes_highByte_eq (w : Word) (v : Byte) :
    joinBytes (highByte w) v = (w &&& 0xFF00) ||| v.setWidth 16 := by
  have hkept : w &&& 0xFF00 = joinBytes (highByte w) 0#8 :=
    calc w &&& 0xFF00
        = joinBytes (highByte w) (lowByte w) &&& joinBytes (BitVec.allOnes 8) 0#8 := by rw [joinBytes_high_low]; rfl
      _ = joinBytes (highByte w) 0#8 := by rw [joinBytes_and_joinBytes, BitVec.and_allOnes, BitVec.and_zero]
  rw [hkept, setWidth_eq_joinBytes, joinBytes_or_joinBytes, BitVec.or_zero, BitVec.zero_or]

/-- The word with its high byte replaced, in the form of R23. -/
theorem joinBytes_lowByte_eq (w : Word) (v : Byte) :
    joinBytes v (lowByte w) = (w &&& (0x00FF : Word)) ||| (v.setWidth 16 <<< 8) := by
  have hkept : w &&& 0x00FF = joinBytes 0#8 (lowByte w) :=
    calc w &&& 0x00FF
        = joinBytes (highByte w) (lowByte w) &&& joinBytes 0#8 (BitVec.allOnes 8) := by rw [joinBytes_high_low]; rfl
      _ = joinBytes 0#8 (lowByte w) := by rw [joinBytes_and_joinBytes, BitVec.and_allOnes, BitVec.and_zero]
  rw [hkept, setWidth_shiftLeft_eq_joinBytes, joinBytes_or_joinBytes, BitVec.or_zero, BitVec.zero_or]

/-! ## A byte register after a write -/

/-- A write to a low half as the write of its whole register. -/
theorem Regs.set8_eq_set_of_low (g : Regs) {r : Reg8} (hr : isHigh r = false) (v : Byte) :
    g.set8 r v = g.set (wholeOf r) ((g.get (wholeOf r) &&& 0xFF00) ||| v.setWidth 16) := by
  simp [Regs.set8, hr, joinBytes_highByte_eq]

/-- A write to a high half as the write of its whole register. -/
theorem Regs.set8_eq_set_of_high (g : Regs) {r : Reg8} (hr : isHigh r = true) (v : Byte) :
    g.set8 r v = g.set (wholeOf r) ((g.get (wholeOf r) &&& (0x00FF : Word)) ||| (v.setWidth 16 <<< 8)) := by
  simp [Regs.set8, hr, joinBytes_lowByte_eq]

/-- A byte register after its whole register is written. -/
theorem Regs.get8_set_wholeOf (g : Regs) (r : Reg8) (v : Word) :
    (g.set (wholeOf r) v).get8 r = if isHigh r then highByte v else lowByte v := by
  simp [Regs.get8_eq_half, Regs.half_set]

/-- Settles O8: the numbering and the reads are the tables of the model, each write is one of the two mask equations, and
a write of the whole is what its halves then read. -/
theorem byteRegistersAreHalves : Obligations.ByteRegistersAreHalves := by
  refine ⟨by decide, fun g => ⟨rfl, rfl, rfl, rfl, rfl, rfl, rfl, rfl⟩, fun g v => ?_,
    fun g r v => ⟨_, rfl, g.get8_set_wholeOf r v⟩⟩
  exact ⟨g.set8_eq_set_of_low (r := .al) rfl v, g.set8_eq_set_of_low (r := .bl) rfl v,
    g.set8_eq_set_of_low (r := .cl) rfl v, g.set8_eq_set_of_low (r := .dl) rfl v,
    g.set8_eq_set_of_high (r := .ah) rfl v, g.set8_eq_set_of_high (r := .bh) rfl v,
    g.set8_eq_set_of_high (r := .ch) rfl v, g.set8_eq_set_of_high (r := .dh) rfl v⟩

end Sys2Proof.Machine
end

section
/-! Family `20_memory.md`. Each memory operation of R53 and R54 is one bounds check: one lemma for each side of it, and one
for what memory reads as after a write, at every address. The byte order of R52 is then a fact about `joinBytes`, for memory
and for the 16-bit fields of instructions alike. -/

namespace Sys2Proof.Machine

/-! ## The bounds check -/

theorem State.memRead8_inside {s : State} {a : Word} (h : a.toNat < s.memSize) :
    s.memRead8 a = .ok (s.mem.read a.toNat) := if_pos h

theorem State.memRead8_outside {s : State} {a : Word} (h : s.memSize ≤ a.toNat) :
    s.memRead8 a = .error (.memoryFault a) := if_neg (Nat.not_lt.mpr h)

theorem State.memRead16_inside {s : State} {a : Word} (h : a.toNat + 1 < s.memSize) :
    s.memRead16 a = .ok (s.mem.readWord a.toNat) := if_pos h

theorem State.memRead16_outside {s : State} {a : Word} (h : s.memSize ≤ a.toNat + 1) :
    s.memRead16 a = .error (.memoryFault a) := if_neg (Nat.not_lt.mpr h)

theorem State.memWrite8_inside {s : State} {a : Word} (v : Byte) (h : a.toNat < s.memSize) :
    s.memWrite8 a v = .ok { s with mem := s.mem.write a.toNat v } := if_pos h

theorem State.memWrite8_outside {s : State} {a : Word} (v : Byte) (h : s.memSize ≤ a.toNat) :
    s.memWrite8 a v = .error (.memoryFault a) := if_neg (Nat.not_lt.mpr h)

theorem State.memWrite16_inside {s : State} {a : Word} (v : Word) (h : a.toNat + 1 < s.memSize) :
    s.memWrite16 a v = .ok { s with mem := s.mem.writeWord a.toNat v } := if_pos h

theorem State.memWrite16_outside {s : State} {a : Word} (v : Word) (h : s.memSize ≤ a.toNat + 1) :
    s.memWrite16 a v = .error (.memoryFault a) := if_neg (Nat.not_lt.mpr h)

/-- The address after one that is inside memory with its successor does not wrap: MEM_SIZE is at most 65536 (R8). -/
theorem State.toNat_add_one_of_inside {s : State} {a : Word} (h : a.toNat + 1 < s.memSize) :
    (a + 1).toNat = a.toNat + 1 := by
  have htop : s.memSize ≤ 2 ^ 16 := s.params.memTop.isLt
  exact BitVec.toNat_add_of_lt (Nat.lt_of_lt_of_le h htop)

/-! ## Memory after a write, at every address -/

/-- A byte write as an update of one address. -/
theorem Memory.read_write {m : Memory} (hm : m.wf) (a : Nat) (v : Byte) (x : Nat) :
    (m.write a v).read x = if x = a then v else m.read x := by
  split
  case isTrue h => rw [h, Memory.read_write_self hm]
  case isFalse h => exact m.read_write_of_ne v h

/-- A word write as an update of two addresses. -/
theorem Memory.read_writeWord {m : Memory} (hm : m.wf) (a : Nat) (v : Word) (x : Nat) :
    (m.writeWord a v).read x = if x = a then lowByte v else if x = a + 1 then highByte v else m.read x := by
  split
  case isTrue h => rw [h, Memory.read_writeWord_low hm]
  case isFalse hlow =>
    split
    case isTrue h => rw [h, Memory.read_writeWord_high hm]
    case isFalse hhigh => exact m.read_writeWord_of_ne v hlow hhigh

/-- A word reads back where it was written. -/
theorem Memory.readWord_writeWord {m : Memory} (hm : m.wf) (a : Nat) (v : Word) :
    (m.writeWord a v).readWord a = v := by
  rw [Memory.readWord, Memory.read_writeWord_high hm, Memory.read_writeWord_low hm, joinBytes_high_low]

/-! ## The value of a word from its bytes -/

theorem toNat_joinBytes (hi lo : Byte) : (joinBytes hi lo).toNat = lo.toNat + 256 * hi.toNat := by
  calc (joinBytes hi lo).toNat
      = hi.toNat <<< 8 ||| lo.toNat := BitVec.toNat_append hi lo
    _ = hi.toNat <<< 8 + lo.toNat := (Nat.shiftLeft_add_eq_or_of_lt lo.isLt _).symm
    _ = lo.toNat + 256 * hi.toNat := by rw [Nat.shiftLeft_eq]; omega

theorem Memory.toNat_readWord (m : Memory) (a : Nat) :
    (m.readWord a).toNat = (m.read a).toNat + 256 * (m.read (a + 1)).toNat := toNat_joinBytes _ _

/-! ## The 16-bit fields of instructions -/

/-- A word field right after the opcode byte: an immediate, a direct address or a relative offset. -/
theorem decode_imm16 {b0 : Byte} {mk : Word → Instr} (hrow : rowOf b0 = .imm16 mk) (lo hi : Byte) (rest : List Byte) :
    decode (b0 :: lo :: hi :: rest) = .ok (mk (joinBytes hi lo), rest) := by
  have h := decodeRow_imm16 b0 mk (joinBytes hi lo) rest
  rw [le16_joinBytes] at h
  rw [decode, hrow]
  exact h

/-- A word displacement after the mode byte. -/
theorem decode_modrm16_disp16 {b0 : Byte} {mk : RM16 → Reg16 → Instr} (hrow : rowOf b0 = .modrm16 mk) (r : Reg16)
    (b : BaseIndex) (lo hi : Byte) (rest : List Byte) :
    decode (b0 :: modeByte 2 r.num b.num :: lo :: hi :: rest) =
      .ok (mk (.mem (.disp16 b (joinBytes hi lo))) r, rest) := by
  have h := decodeRow_modrm16 b0 mk (rm := .mem (.disp16 b (joinBytes hi lo))) rfl r rest
  rw [RM16.bytes, MemOp.disp, le16_joinBytes] at h
  rw [decode, hrow]
  exact h

/-! ## The statements -/

/-- Settles O10: each write is one bounds check, and inside it the updated memory is canonical and differs from the old one
at the addressed cells only. -/
theorem memWriteChecksAndStores : Obligations.MemWriteChecksAndStores := by
  intro s a hm
  refine ⟨fun v => ⟨State.memWrite8_outside v, fun h => ?_⟩, fun v => ⟨State.memWrite16_outside v, fun h => ?_⟩⟩
  · exact ⟨_, State.memWrite8_inside v h, Memory.write_wf hm _ v, Memory.read_write hm _ v⟩
  · exact ⟨_, State.memWrite16_inside v h, Memory.writeWord_wf hm _ v, Memory.read_writeWord hm _ v⟩

/-- The memory half of O11: a word written inside memory, read by its bytes and whole. -/
theorem memRead_after_memWrite16 {s : State} {a : Word} (v : Word) (hm : s.mem.wf) (h : a.toNat + 1 < s.memSize) :
    ∃ t, s.memWrite16 a v = .ok t ∧ t.memRead8 a = .ok (lowByte v) ∧ t.memRead8 (a + 1) = .ok (highByte v) ∧
      t.memRead16 a = .ok v := by
  have hnext := State.toNat_add_one_of_inside h
  refine ⟨{ s with mem := s.mem.writeWord a.toNat v }, State.memWrite16_inside v h, ?_, ?_, ?_⟩
  · rw [State.memRead8_inside, Memory.read_writeWord_low hm]
    exact Nat.lt_of_succ_lt h
  · rw [State.memRead8_inside, hnext, Memory.read_writeWord_high hm]
    exact hnext.trans_lt h
  · rw [State.memRead16_inside, Memory.readWord_writeWord hm]
    exact h

/-- Settles O11: a written word reads back low byte first, and each kind of field is read by `decode_imm16` or
`decode_modrm16_disp16`. -/
theorem memoryIsLittleEndian : Obligations.MemoryIsLittleEndian := by
  refine ⟨fun s a v => memRead_after_memWrite16 v, fun lo hi rest => ⟨?_, ?_, ?_, ?_⟩⟩
  · exact decode_imm16 (b0 := 0xB8) rfl lo hi rest
  · exact decode_imm16 (b0 := 0xA0) rfl lo hi rest
  · exact decode_modrm16_disp16 (b0 := 0x8B) rfl .ax .bx lo hi rest
  · exact decode_imm16 (b0 := 0xE9) rfl lo hi rest

/-- Settles O9: each read is one bounds check; the word inside it is its two bytes, the low one first. -/
theorem memReadChecksAndReads : Obligations.MemReadChecksAndReads := fun s a =>
  ⟨State.memRead8_inside, State.memRead8_outside,
    fun h => ⟨_, State.memRead16_inside h, s.mem.toNat_readWord a.toNat⟩, State.memRead16_outside⟩

end Sys2Proof.Machine
end

section
/-! Family `41_arithmetic.md`. SetSZP (R150) in the words of the rule, at every width: ZF and PF have a
lemma each, and SF is the library's `BitVec.msb_eq_getLsbD_last`. -/

namespace Sys2Proof.Machine

/-- The bits counted by recursion are those the rule counts among the positions 0 to k - 1. -/
theorem onesBelow_eq_countP {n : Nat} (v : BitVec n) (k : Nat) :
    onesBelow v k = (List.range k).countP fun i => v.getLsbD i := by
  induction k with
  | zero => rfl
  | succ k ih => rw [onesBelow, ih, List.range_succ, List.countP_append, List.countP_singleton, Bool.toNat,
    cond_eq_ite]

theorem evenParity_eq_decide_countP {n : Nat} (r : BitVec n) :
    evenParity r = decide (((List.range 8).countP fun k => r.getLsbD k) % 2 = 0) := by
  rw [evenParity, onesBelow_eq_countP, beq_eq_decide]

theorem beq_zero_eq_decide_toNat {n : Nat} (r : BitVec n) : (r == 0) = decide (r.toNat = 0) := by
  have hzero : r = 0 ↔ r.toNat = 0 := by rw [← BitVec.toNat_inj, BitVec.ofNat_eq_ofNat, BitVec.toNat_zero]
  rw [beq_eq_decide, decide_eq_decide.mpr hzero]

/-- SetSZP at any width, as R150 states it. -/
theorem Flags.setSZP_eq {n : Nat} (f : Flags) (r : BitVec n) :
    f.setSZP r = { f with
      sign := r.getLsbD (n - 1)
      zero := decide (r.toNat = 0)
      parity := decide (((List.range 8).countP fun k => r.getLsbD k) % 2 = 0) } := by
  rw [Flags.setSZP, BitVec.msb_eq_getLsbD_last, beq_zero_eq_decide_toNat, evenParity_eq_decide_countP]

/-- Settles O14: the formulas hold at every width, in particular at 8 and 16. -/
theorem resultFlagsAreSignZeroParity : Obligations.ResultFlagsAreSignZeroParity :=
  fun _ _ f r => f.setSZP_eq r

end Sys2Proof.Machine
end

section
/-! Family `43_control_flow.md`. The sixteen conditional jumps and LOOP are one shape, `branchIf`: one lemma for each way it
goes, one lemma that makes a `JumpsWhen` of any instruction of that shape, and the statements from these. -/

namespace Sys2Proof.Machine

/-! ## The two ways of a branch -/

theorem branchIf_taken {c : Bool} (h : c = true) (d : Byte) (s : State) :
    branchIf c d s = .next { s with pc := s.pc + 2 + d.signExtend 16 } := by
  subst h
  rfl

theorem branchIf_not_taken {c : Bool} (h : ¬ c = true) (d : Byte) (s : State) :
    branchIf c d s = .next { s with pc := s.pc + 2 } := by
  obtain rfl := Bool.eq_false_of_not_eq_true h
  rfl

/-- An instruction that branches on a test of the flags jumps exactly when the condition holds that the test decides. -/
theorem jumpsWhen_of_branchIf {mk : Byte → Instr} {opcode : Byte} {cond : Flags → Prop} (test : Flags → Bool)
    (hencode : ∀ d, encode (mk d) = [opcode, d]) (hexec : ∀ d s, exec (mk d) s = branchIf (test s.flags) d s)
    (htest : ∀ f, test f = true ↔ cond f) : JumpsWhen mk opcode cond := fun d s => by
  rw [hexec, ← htest]
  exact ⟨hencode d, (branchIf_taken · d s), (branchIf_not_taken · d s)⟩

/-! ## The tests of the compound conditions -/

theorem not_and_not_test_iff (a b : Bool) : (!a && !b) = true ↔ a = false ∧ b = false := by
  rw [Bool.and_eq_true, Bool.not_eq_true', Bool.not_eq_true']

theorem or_bne_test_iff (a b c : Bool) : (a || b != c) = true ↔ a = true ∨ b ≠ c := by
  rw [Bool.or_eq_true, bne_iff_ne]

theorem not_and_beq_test_iff (a b c : Bool) : (!a && b == c) = true ↔ a = false ∧ b = c := by
  rw [Bool.and_eq_true, Bool.not_eq_true', beq_iff_eq]

/-! ## LOOP -/

/-- LOOP is a branch on the lowered CX, in the state that holds it. -/
theorem exec_loop (d : Byte) (s : State) :
    exec (.loop d) s = branchIf (s.regs.cx - 1 != 0) d { s with regs := { s.regs with cx := s.regs.cx - 1 } } := rfl

/-- The lowered CX is 0 only from 1: below 0 it wraps to 0xFFFF. -/
theorem lowered_ne_zero_iff (cx : Word) : (cx - 1 != 0) = true ↔ cx ≠ 1 := by
  rw [bne_iff_ne, Ne, sub_eq_zero]

/-! ## The statements -/

/-- Settles O34: each of the eight is `branchIf` on the test of its rule (R192 to R199). -/
theorem unsignedConditionalJumps : Obligations.UnsignedConditionalJumps := by
  refine ⟨?jo, ?jno, ?jb, ?jnb, ?je, ?jne, ?jbe, ?jnbe⟩
  case jo => exact jumpsWhen_of_branchIf (·.overflow) (fun _ => rfl) (fun _ _ => rfl) fun _ => Iff.rfl
  case jno => exact jumpsWhen_of_branchIf (!·.overflow) (fun _ => rfl) (fun _ _ => rfl) fun _ => .of_eq (Bool.not_eq_true' _)
  case jb => exact jumpsWhen_of_branchIf (·.carry) (fun _ => rfl) (fun _ _ => rfl) fun _ => Iff.rfl
  case jnb => exact jumpsWhen_of_branchIf (!·.carry) (fun _ => rfl) (fun _ _ => rfl) fun _ => .of_eq (Bool.not_eq_true' _)
  case je => exact jumpsWhen_of_branchIf (·.zero) (fun _ => rfl) (fun _ _ => rfl) fun _ => Iff.rfl
  case jne => exact jumpsWhen_of_branchIf (!·.zero) (fun _ => rfl) (fun _ _ => rfl) fun _ => .of_eq (Bool.not_eq_true' _)
  case jbe =>
    exact jumpsWhen_of_branchIf (fun f => f.carry || f.zero) (fun _ => rfl) (fun _ _ => rfl)
      fun _ => Bool.or_eq_true_iff
  case jnbe =>
    exact jumpsWhen_of_branchIf (fun f => !f.carry && !f.zero) (fun _ => rfl) (fun _ _ => rfl)
      fun _ => not_and_not_test_iff _ _

/-- Settles O35: each of the eight is `branchIf` on the test of its rule (R200 to R207). -/
theorem signedConditionalJumps : Obligations.SignedConditionalJumps := by
  refine ⟨?js, ?jns, ?jp, ?jnp, ?jl, ?jnl, ?jle, ?jnle⟩
  case js => exact jumpsWhen_of_branchIf (·.sign) (fun _ => rfl) (fun _ _ => rfl) fun _ => Iff.rfl
  case jns => exact jumpsWhen_of_branchIf (!·.sign) (fun _ => rfl) (fun _ _ => rfl) fun _ => .of_eq (Bool.not_eq_true' _)
  case jp => exact jumpsWhen_of_branchIf (·.parity) (fun _ => rfl) (fun _ _ => rfl) fun _ => Iff.rfl
  case jnp => exact jumpsWhen_of_branchIf (!·.parity) (fun _ => rfl) (fun _ _ => rfl) fun _ => .of_eq (Bool.not_eq_true' _)
  case jl =>
    exact jumpsWhen_of_branchIf (fun f => f.sign != f.overflow) (fun _ => rfl) (fun _ _ => rfl) fun _ => bne_iff_ne
  case jnl =>
    exact jumpsWhen_of_branchIf (fun f => f.sign == f.overflow) (fun _ => rfl) (fun _ _ => rfl) fun _ => beq_iff_eq
  case jle =>
    exact jumpsWhen_of_branchIf (fun f => f.zero || f.sign != f.overflow) (fun _ => rfl) (fun _ _ => rfl)
      fun _ => or_bne_test_iff _ _ _
  case jnle =>
    exact jumpsWhen_of_branchIf (fun f => !f.zero && f.sign == f.overflow) (fun _ => rfl) (fun _ _ => rfl)
      fun _ => not_and_beq_test_iff _ _ _

/-- Settles O40: both ways of `branchIf` on the lowered CX. -/
theorem loopCountsCxDown : Obligations.LoopCountsCxDown := fun d s => by
  refine ⟨rfl, rfl, fun hcx => ?taken, fun hcx => ?ended⟩
  case taken => rw [exec_loop, branchIf_taken ((lowered_ne_zero_iff _).mpr hcx)]
  case ended =>
    have hzero : s.regs.cx - 1 = 0 := sub_eq_zero.mpr hcx
    rw [exec_loop, hzero, branchIf_not_taken (by decide)]

end Sys2Proof.Machine
end

section
/-! Family `44_halt_nop_rejected.md`. NOP is its execution rule and the two facts of its encoding. -/

namespace Sys2Proof.Machine

/-- Advancing over one byte adds 1 to pc and keeps every other field. -/
theorem State.advance_one (s : State) : s.advance 1 = { s with pc := s.pc + 1 } := rfl

/-- NOP steps over its one byte (R231). -/
theorem exec_nop (s : State) : exec .nop s = .next (s.advance 1) := rfl

/-- Settles O42: NOP is one byte, and all it does is to advance over it. -/
theorem nopOnlyAdvancesPc : Obligations.NopOnlyAdvancesPc := fun s => by
  refine ⟨?encoding, ?length, ?execution⟩
  case encoding => rfl
  case length => rfl
  case execution => rw [exec_nop, State.advance_one]

end Sys2Proof.Machine
end

section
/-! Family `other`, encoding (30_encoding.md): the decoder takes back what the encoder wrote, one lemma for each row format. -/

namespace Sys2Proof

/-! ## The encoder's bytes read back, by the row of the opcode byte -/

section RoundTrip

variable {b0 : Byte} (rest : List Byte)

theorem decode_plain {i : Instr} (hrow : rowOf b0 = .plain i) : decode ([b0] ++ rest) = .ok (i, rest) := by
  rw [List.singleton_append, decode, hrow]
  rfl

theorem decode_imm8 {mk : Byte → Instr} (hrow : rowOf b0 = .imm8 mk) (v : Byte) :
    decode ([b0, v] ++ rest) = .ok (mk v, rest) := by
  rw [List.cons_append, decode, hrow]
  rfl

theorem decode_le16 {mk : Word → Instr} (hrow : rowOf b0 = .imm16 mk) (v : Word) :
    decode (b0 :: le16 v ++ rest) = .ok (mk v, rest) := by
  rw [List.cons_append, decode, hrow, decodeRow_imm16]

theorem decode_modrm8 {mk : RM8 → Reg8 → Instr} (hrow : rowOf b0 = .modrm8 mk) {rm : RM8} (h : rm.wf) (r : Reg8) :
    decode (b0 :: rm.bytes r.num ++ rest) = .ok (mk rm r, rest) := by
  rw [List.cons_append, decode, hrow, decodeRow_modrm8 b0 mk h]

theorem decode_modrm16 {mk : RM16 → Reg16 → Instr} (hrow : rowOf b0 = .modrm16 mk) {rm : RM16} (h : rm.wf)
    (r : Reg16) : decode (b0 :: rm.bytes r.num ++ rest) = .ok (mk rm r, rest) := by
  rw [List.cons_append, decode, hrow, decodeRow_modrm16 b0 mk h]

/-- The same where the register is the first operand. -/
theorem decode_modrm8_regFirst {mk : Reg8 → RM8 → Instr} (hrow : rowOf b0 = .modrm8 fun rm r => mk r rm) {rm : RM8}
    (h : rm.wf) (r : Reg8) : decode (b0 :: rm.bytes r.num ++ rest) = .ok (mk r rm, rest) :=
  decode_modrm8 rest hrow h r

theorem decode_ext8 {slot : BitVec 3 → Option (RM8 → Instr)} (hrow : rowOf b0 = .ext8 slot) {rm : RM8} (h : rm.wf)
    {k : BitVec 3} {mk : RM8 → Instr} (hk : slot k = some mk) :
    decode (b0 :: rm.bytes k ++ rest) = .ok (mk rm, rest) := by
  rw [List.cons_append, decode, hrow, decodeRow_ext8 b0 slot h hk]

/-- The same where the register is the first operand. -/
theorem decode_modrm16_regFirst {mk : Reg16 → RM16 → Instr} (hrow : rowOf b0 = .modrm16 fun rm r => mk r rm) {rm : RM16}
    (h : rm.wf) (r : Reg16) : decode (b0 :: rm.bytes r.num ++ rest) = .ok (mk r rm, rest) :=
  decode_modrm16 rest hrow h r

theorem decode_ext16 {slot : BitVec 3 → Option (RM16 → Instr)} (hrow : rowOf b0 = .ext16 slot) {rm : RM16} (h : rm.wf)
    {k : BitVec 3} {mk : RM16 → Instr} (hk : slot k = some mk) :
    decode (b0 :: rm.bytes k ++ rest) = .ok (mk rm, rest) := by
  rw [List.cons_append, decode, hrow, decodeRow_ext16 b0 slot h hk]

theorem decode_ext8Imm8 {slot : BitVec 3 → Option (RM8 → Byte → Instr)} (hrow : rowOf b0 = .ext8Imm8 slot) {rm : RM8}
    (h : rm.wf) {k : BitVec 3} {mk : RM8 → Byte → Instr} (hk : slot k = some mk) (v : Byte) :
    decode (b0 :: (rm.bytes k ++ [v]) ++ rest) = .ok (mk rm v, rest) := by
  rw [List.cons_append, List.append_assoc, decode, hrow, decodeRow_ext8Imm8 b0 slot h hk]

theorem decode_ext16Imm16 {slot : BitVec 3 → Option (RM16 → Word → Instr)} (hrow : rowOf b0 = .ext16Imm16 slot)
    {rm : RM16} (h : rm.wf) {k : BitVec 3} {mk : RM16 → Word → Instr} (hk : slot k = some mk) (v : Word) :
    decode (b0 :: (rm.bytes k ++ le16 v) ++ rest) = .ok (mk rm v, rest) := by
  rw [List.cons_append, List.append_assoc, decode, hrow, decodeRow_ext16Imm16 b0 slot h hk]

theorem decode_ext16Imm8 {slot : BitVec 3 → Option (RM16 → Byte → Instr)} (hrow : rowOf b0 = .ext16Imm8 slot)
    {rm : RM16} (h : rm.wf) {k : BitVec 3} {mk : RM16 → Byte → Instr} (hk : slot k = some mk) (v : Byte) :
    decode (b0 :: (rm.bytes k ++ [v]) ++ rest) = .ok (mk rm v, rest) := by
  rw [List.cons_append, List.append_assoc, decode, hrow, decodeRow_ext16Imm8 b0 slot h hk]

end RoundTrip

/-! ## The opcode bytes that hold a register number (R82) -/

theorem rowOf_inc (r : Reg16) : rowOf (opcodeWithReg 0x08 r.num) = .plain (.incR16 r) := by cases r <;> rfl
theorem rowOf_dec (r : Reg16) : rowOf (opcodeWithReg 0x09 r.num) = .plain (.decR16 r) := by cases r <;> rfl
theorem rowOf_push (r : Reg16) : rowOf (opcodeWithReg 0x0A r.num) = .plain (.pushR16 r) := by cases r <;> rfl
theorem rowOf_pop (r : Reg16) : rowOf (opcodeWithReg 0x0B r.num) = .plain (.popR16 r) := by cases r <;> rfl
theorem rowOf_movR8 (r : Reg8) : rowOf (opcodeWithReg 0x16 r.num) = .imm8 (.movR8Imm8 r) := by cases r <;> rfl
theorem rowOf_movR16 (r : Reg16) : rowOf (opcodeWithReg 0x17 r.num) = .imm16 (.movR16Imm16 r) := by cases r <;> rfl

/-- Settles O1: one case for each row format of the opcode map. -/
theorem decodeOfEncode : Obligations.DecodeOfEncode := by
  intro i rest h
  cases i
  case addRm8R8 | orRm8R8 | andRm8R8 | subRm8R8 | xorRm8R8 | cmpRm8R8 | movRm8R8 => exact decode_modrm8 rest rfl h _
  case addRm16R16 | orRm16R16 | andRm16R16 | subRm16R16 | xorRm16R16 | cmpRm16R16 | movRm16R16 =>
    exact decode_modrm16 rest rfl h _
  case addR8Rm8 | orR8Rm8 | andR8Rm8 | subR8Rm8 | xorR8Rm8 | cmpR8Rm8 | movR8Rm8 =>
    exact decode_modrm8_regFirst rest rfl h _
  case addR16Rm16 | orR16Rm16 | andR16Rm16 | subR16Rm16 | xorR16Rm16 | cmpR16Rm16 | movR16Rm16 =>
    exact decode_modrm16_regFirst rest rfl h _
  case addAlImm8 | orAlImm8 | andAlImm8 | subAlImm8 | xorAlImm8 | cmpAlImm8 | jmpRel8 | jo | jno | jb | jnb | je | jne
      | jbe | jnbe | js | jns | jp | jnp | jl | jnl | jle | jnle | loop => exact decode_imm8 rest rfl _
  case addAxImm16 | orAxImm16 | andAxImm16 | subAxImm16 | xorAxImm16 | cmpAxImm16 | movAlMoffs | movAxMoffs
      | movMoffsAl | movMoffsAx | jmpRel16 | callRel16 | retImm16 => exact decode_le16 rest rfl _
  case addRm8Imm8 | orRm8Imm8 | andRm8Imm8 | subRm8Imm8 | xorRm8Imm8 | cmpRm8Imm8 | movRm8Imm8 =>
    exact decode_ext8Imm8 rest rfl h rfl _
  case addRm16Imm16 | orRm16Imm16 | andRm16Imm16 | subRm16Imm16 | xorRm16Imm16 | cmpRm16Imm16 | movRm16Imm16 =>
    exact decode_ext16Imm16 rest rfl h rfl _
  case addRm16Simm8 | orRm16Simm8 | andRm16Simm8 | subRm16Simm8 | xorRm16Simm8 | cmpRm16Simm8 =>
    exact decode_ext16Imm8 rest rfl h rfl _
  case incRm8 | decRm8 | notRm8 | mulRm8 | divRm8 | idivRm8 => exact decode_ext8 rest rfl h rfl
  case incRm16 | decRm16 | notRm16 | mulRm16 | divRm16 | idivRm16 | pushRm16 | popRm16 | jmpRm16 | callRm16 =>
    exact decode_ext16 rest rfl h rfl
  case incR16 r => exact decode_plain rest (rowOf_inc r)
  case decR16 r => exact decode_plain rest (rowOf_dec r)
  case pushR16 r => exact decode_plain rest (rowOf_push r)
  case popR16 r => exact decode_plain rest (rowOf_pop r)
  case movR8Imm8 r v => exact decode_imm8 rest (rowOf_movR8 r) v
  case movR16Imm16 r v => exact decode_le16 rest (rowOf_movR16 r) v
  case ret | hlt | nop | inAlImm8 | inAxImm8 | inAlDx | inAxDx | outImm8Al | outImm8Ax | outDxAl | outDxAx | lock
      | wait => exact decode_plain rest rfl

end Sys2Proof
end

section
/-! Family `other`, encoding: the first-byte map of R101 and the encoder, written on their own, agree byte by byte. -/

namespace Sys2Proof
open Sys2Proof.Machine

/-! ## The opcode map agrees with the encoder -/

theorem eq_ofNat_of_toNat_eq {n k : Nat} {v : BitVec n} (h : v.toNat = k) : v = BitVec.ofNat n k := by
  rw [← h, BitVec.ofNat_toNat, BitVec.setWidth_eq]

/-- An opcode byte is its bits 7:3 and its bits 2:0 (R82). -/
theorem opcodeWithReg_fields : ∀ b0 : Byte, opcodeWithReg ((b0 >>> 3).setWidth 5) (rmField b0) = b0 := by decide

theorem opcodeWithReg_of_high {b0 : Byte} {k : Nat} (h : (b0 >>> 3).toNat = k) :
    opcodeWithReg (BitVec.ofNat 5 k) (rmField b0) = b0 := by
  have hhigh : (b0 >>> 3).setWidth 5 = BitVec.ofNat 5 k := by rw [← h]; rfl
  rw [← hhigh, opcodeWithReg_fields]

/-- The operations of group 1 are the six of R103, each in its slot. -/
theorem groupOne_some {P : BitVec 3 → NineForms → Prop} (hadd : P 0 addForms) (hor : P 1 orForms) (hand : P 4 andForms)
    (hsub : P 5 subForms) (hxor : P 6 xorForms) (hcmp : P 7 cmpForms) {k : BitVec 3} {ops : NineForms}
    (h : groupOne k = some ops) : P k ops := by
  unfold groupOne at h
  split at h
  case h_7 => cases h
  all_goals
    next hk =>
    obtain rfl := eq_ofNat_of_toNat_eq hk
    obtain rfl := Option.some.inj h
    assumption

/-- The bytes and lengths of the nine forms of every operation of group 1: base 8 * k, slot k (R102, R103). -/
theorem nineFormsBytes_of_groupOne {k : BitVec 3} {ops : NineForms} (h : groupOne k = some ops) :
    NineFormsBytes ops (k.setWidth 8 * 8) k := by
  refine groupOne_some (P := fun k ops => NineFormsBytes ops (k.setWidth 8 * 8) k) ?_ ?_ ?_ ?_ ?_ ?_ h
  all_goals
    refine ⟨fun _ _ => ?_, fun _ _ => ?_, fun _ _ => ?_, fun _ _ => ?_, fun _ => ?_, fun _ => ?_, fun _ _ => ?_,
      fun _ _ => ?_, fun _ _ => ?_⟩
    all_goals exact ⟨rfl, rfl⟩

/-- A form is well formed when its r/m operand is; with an immediate and no r/m operand it always is. -/
structure NineFormsWf (ops : NineForms) : Prop where
  rm8R8 : ∀ rm r, (ops.rm8R8 rm r).wf = rm.wf
  rm16R16 : ∀ rm r, (ops.rm16R16 rm r).wf = rm.wf
  r8Rm8 : ∀ r rm, (ops.r8Rm8 r rm).wf = rm.wf
  r16Rm16 : ∀ r rm, (ops.r16Rm16 r rm).wf = rm.wf
  alImm8 : ∀ v, (ops.alImm8 v).wf = true
  axImm16 : ∀ v, (ops.axImm16 v).wf = true
  rm8Imm8 : ∀ rm v, (ops.rm8Imm8 rm v).wf = rm.wf
  rm16Imm16 : ∀ rm v, (ops.rm16Imm16 rm v).wf = rm.wf
  rm16Simm8 : ∀ rm v, (ops.rm16Simm8 rm v).wf = rm.wf

theorem nineFormsWf_of_groupOne {k : BitVec 3} {ops : NineForms} (h : groupOne k = some ops) : NineFormsWf ops := by
  refine groupOne_some (P := fun _ ops => NineFormsWf ops) ?_ ?_ ?_ ?_ ?_ ?_ h
  all_goals
    exact ⟨fun _ _ => rfl, fun _ _ => rfl, fun _ _ => rfl, fun _ _ => rfl, fun _ => rfl, fun _ => rfl, fun _ _ => rfl,
      fun _ _ => rfl, fun _ _ => rfl⟩

/-- The encoder writes `i` as `b0` and `tail`, `n` bytes; `operandWf` says whether its operands are well formed. -/
structure EncodedAs (b0 : Byte) (i : Instr) (operandWf : Bool) (tail : List Byte) (n : Nat) : Prop where
  wf : i.wf = operandWf
  bytes : encode i = b0 :: tail
  len : i.len = n

/-- The encoder writes every instruction of a row with the row's opcode byte, in the row's format (R97). -/
def Row.Agrees (b0 : Byte) : Row → Prop
  | .unsupported => True
  | .plain i => EncodedAs b0 i true [] 1
  | .imm8 mk => ∀ v, EncodedAs b0 (mk v) true [v] 2
  | .imm16 mk => ∀ v, EncodedAs b0 (mk v) true (le16 v) 3
  | .modrm8 mk => ∀ rm r, EncodedAs b0 (mk rm r) rm.wf (rm.bytes r.num) (2 + rm.dispBytes)
  | .modrm16 mk => ∀ rm r, EncodedAs b0 (mk rm r) rm.wf (rm.bytes r.num) (2 + rm.dispBytes)
  | .ext8 slot => ∀ k mk, slot k = some mk → ∀ rm, EncodedAs b0 (mk rm) rm.wf (rm.bytes k) (2 + rm.dispBytes)
  | .ext16 slot => ∀ k mk, slot k = some mk → ∀ rm, EncodedAs b0 (mk rm) rm.wf (rm.bytes k) (2 + rm.dispBytes)
  | .ext8Imm8 slot => ∀ k mk, slot k = some mk → ∀ rm v,
      EncodedAs b0 (mk rm v) rm.wf (rm.bytes k ++ [v]) (3 + rm.dispBytes)
  | .ext16Imm16 slot => ∀ k mk, slot k = some mk → ∀ rm v,
      EncodedAs b0 (mk rm v) rm.wf (rm.bytes k ++ le16 v) (4 + rm.dispBytes)
  | .ext16Imm8 slot => ∀ k mk, slot k = some mk → ∀ rm v,
      EncodedAs b0 (mk rm v) rm.wf (rm.bytes k ++ [v]) (3 + rm.dispBytes)

/-- The opcode byte of a form in the block of its operation (R102). -/
theorem block_opcode : ∀ k form : BitVec 3,
    k.setWidth 8 * 8 + form.setWidth 8 = opcodeWithReg (BitVec.ofNat 5 k.toNat) form := by decide

/-- The block of eight opcode bytes of an operation agrees with its nine forms (R102). -/
theorem aluRow_agrees {k : BitVec 3} {ops : NineForms} (h : groupOne k = some ops) (form : BitVec 3) :
    (aluRow ops form).Agrees (k.setWidth 8 * 8 + form.setWidth 8) := by
  obtain ⟨hrm8R8, hrm16R16, hr8Rm8, hr16Rm16, hal, hax, -⟩ := nineFormsBytes_of_groupOne h
  have hwf := nineFormsWf_of_groupOne h
  unfold aluRow
  split
  case h_7 => trivial
  all_goals
    rename_i hform
    obtain rfl := eq_ofNat_of_toNat_eq hform
  case h_1 =>
    have hbase : k.setWidth 8 * 8 + (0#3).setWidth 8 = k.setWidth 8 * 8 := BitVec.add_zero _
    rw [hbase]
    exact fun rm r => ⟨hwf.rm8R8 rm r, (hrm8R8 rm r).1, (hrm8R8 rm r).2⟩
  case h_2 => exact fun rm r => ⟨hwf.rm16R16 rm r, (hrm16R16 rm r).1, (hrm16R16 rm r).2⟩
  case h_3 => exact fun rm r => ⟨hwf.r8Rm8 r rm, (hr8Rm8 r rm).1, (hr8Rm8 r rm).2⟩
  case h_4 => exact fun rm r => ⟨hwf.r16Rm16 r rm, (hr16Rm16 r rm).1, (hr16Rm16 r rm).2⟩
  case h_5 => exact fun v => ⟨hwf.alImm8 v, (hal v).1, (hal v).2⟩
  case h_6 => exact fun v => ⟨hwf.axImm16 v, (hax v).1, (hax v).2⟩

theorem aluRow_agrees_of_high {k : BitVec 3} {ops : NineForms} (h : groupOne k = some ops) {b0 : Byte}
    (hb0 : (b0 >>> 3).toNat = k.toNat) : (aluRow ops (rmField b0)).Agrees b0 := by
  have hrow := aluRow_agrees h (rmField b0)
  rwa [block_opcode, opcodeWithReg_of_high hb0] at hrow

/-- The group-1 opcodes 80, 81 and 83 agree with the immediate forms of their operations (R103). -/
theorem groupOne_agrees :
    (Row.ext8Imm8 fun k => (groupOne k).map NineForms.rm8Imm8).Agrees 0x80 ∧
    (Row.ext16Imm16 fun k => (groupOne k).map NineForms.rm16Imm16).Agrees 0x81 ∧
    (Row.ext16Imm8 fun k => (groupOne k).map NineForms.rm16Simm8).Agrees 0x83 := by
  refine ⟨fun k mk hmk rm v => ?_, fun k mk hmk rm v => ?_, fun k mk hmk rm v => ?_⟩
  all_goals
    obtain ⟨ops, hops, rfl⟩ := Option.map_eq_some_iff.mp hmk
    obtain ⟨-, -, -, -, -, -, hrm8, hrm16, hsimm⟩ := nineFormsBytes_of_groupOne hops
    have hwf := nineFormsWf_of_groupOne hops
  · exact ⟨hwf.rm8Imm8 rm v, (hrm8 rm v).1, (hrm8 rm v).2⟩
  · exact ⟨hwf.rm16Imm16 rm v, (hrm16 rm v).1, (hrm16 rm v).2⟩
  · exact ⟨hwf.rm16Simm8 rm v, (hsimm rm v).1, (hsimm rm v).2⟩

/-- A property of all eight slots of a group. -/
theorem forall_slot {P : BitVec 3 → Prop} (h : ∀ n < 8, P (BitVec.ofNat 3 n)) (k : BitVec 3) : P k := by
  have hk := h k.toNat k.isLt
  rwa [BitVec.ofNat_toNat, BitVec.setWidth_eq] at hk

/-! The other groups, slot by slot (R104 to R108): an unsupported slot makes no instruction. -/

theorem groupThreeByte_agrees : (Row.ext8 groupThreeByte).Agrees 0xF6 := by
  refine forall_slot fun k hk => ?_
  interval_cases k <;> rintro mk ⟨⟩ rm <;> exact ⟨rfl, rfl, rfl⟩

theorem groupThreeWord_agrees : (Row.ext16 groupThreeWord).Agrees 0xF7 := by
  refine forall_slot fun k hk => ?_
  interval_cases k <;> rintro mk ⟨⟩ rm <;> exact ⟨rfl, rfl, rfl⟩

theorem groupFour_agrees : (Row.ext8 groupFour).Agrees 0xFE := by
  refine forall_slot fun k hk => ?_
  interval_cases k <;> rintro mk ⟨⟩ rm <;> exact ⟨rfl, rfl, rfl⟩

theorem groupFive_agrees : (Row.ext16 groupFive).Agrees 0xFF := by
  refine forall_slot fun k hk => ?_
  interval_cases k <;> rintro mk ⟨⟩ rm <;> exact ⟨rfl, rfl, rfl⟩

theorem groupPop_agrees : (Row.ext16 groupPop).Agrees 0x8F := by
  refine forall_slot fun k hk => ?_
  interval_cases k <;> rintro mk ⟨⟩ rm
  exact ⟨rfl, rfl, rfl⟩

theorem groupMovByte_agrees : (Row.ext8Imm8 groupMovByte).Agrees 0xC6 := by
  refine forall_slot fun k hk => ?_
  interval_cases k <;> rintro mk ⟨⟩ rm v
  exact ⟨rfl, rfl, rfl⟩

theorem groupMovWord_agrees : (Row.ext16Imm16 groupMovWord).Agrees 0xC7 := by
  refine forall_slot fun k hk => ?_
  interval_cases k <;> rintro mk ⟨⟩ rm v
  exact ⟨rfl, rfl, rfl⟩

/-- An opcode byte with a register number in its low bits is what the encoder writes for that register (R82). -/
theorem opcodeWithReg_num16 {b0 : Byte} {k : Nat} (h : (b0 >>> 3).toNat = k) :
    opcodeWithReg (BitVec.ofNat 5 k) (Reg16.ofNum (rmField b0)).num = b0 := by
  rw [Reg16.num_ofNum, opcodeWithReg_of_high h]

theorem opcodeWithReg_num8 {b0 : Byte} {k : Nat} (h : (b0 >>> 3).toNat = k) :
    opcodeWithReg (BitVec.ofNat 5 k) (Reg8.ofNum (rmField b0)).num = b0 := by
  rw [Reg8.num_ofNum, opcodeWithReg_of_high h]

/-- The first-byte map and the encoder agree on every byte (R101). -/
theorem rowOf_agrees (b0 : Byte) : (rowOf b0).Agrees b0 := by
  unfold rowOf
  split
  case h_1 h => exact aluRow_agrees_of_high (k := 0) rfl h
  case h_2 h => exact aluRow_agrees_of_high (k := 1) rfl h
  case h_3 h => exact aluRow_agrees_of_high (k := 4) rfl h
  case h_4 h => exact aluRow_agrees_of_high (k := 5) rfl h
  case h_5 h => exact aluRow_agrees_of_high (k := 6) rfl h
  case h_6 h => exact aluRow_agrees_of_high (k := 7) rfl h
  case h_7 h | h_8 h | h_9 h | h_10 h => exact ⟨rfl, congrArg (fun b => [b]) (opcodeWithReg_num16 h), rfl⟩
  case h_11 h => exact fun v => ⟨rfl, congrArg (fun b => [b, v]) (opcodeWithReg_num8 h), rfl⟩
  case h_12 h => exact fun v => ⟨rfl, congrArg (fun b => b :: le16 v) (opcodeWithReg_num16 h), rfl⟩
  case h_13 =>
    split
    case h_53 => trivial
    all_goals
      rename_i hb0
      obtain rfl := eq_ofNat_of_toNat_eq hb0
    case h_17 => exact groupOne_agrees.1
    case h_18 => exact groupOne_agrees.2.1
    case h_19 => exact groupOne_agrees.2.2
    case h_24 => exact groupPop_agrees
    case h_33 => exact groupMovByte_agrees
    case h_34 => exact groupMovWord_agrees
    case h_49 => exact groupThreeByte_agrees
    case h_50 => exact groupThreeWord_agrees
    case h_51 => exact groupFour_agrees
    case h_52 => exact groupFive_agrees
    case h_20 | h_21 | h_22 | h_23 => exact fun rm r => ⟨rfl, rfl, rfl⟩
    case h_25 | h_26 | h_32 | h_36 | h_37 | h_38 | h_39 | h_43 | h_44 | h_45 | h_46 | h_47 | h_48 =>
      exact ⟨rfl, rfl, rfl⟩
    all_goals exact fun v => ⟨rfl, rfl, rfl⟩

end Sys2Proof
end

section
/-! Family `other`, encoding: what the decoder accepts, what it refuses, and the words the spec writes out. -/

namespace Sys2Proof
open Sys2Proof.Machine Sys2Proof.Laws

/-! ## What the decoder read is what the encoder writes -/

/-- `i` is a well-formed instruction whose bytes, one to six, stand at the front of `bs`, before `rest`. -/
structure ReadsAs (bs : List Byte) (i : Instr) (rest : List Byte) : Prop where
  wf : i.wf = true
  bytes : bs = encode i ++ rest
  size : EncodeLength.Statement i

theorem EncodedAs.readsAs {b0 : Byte} {i : Instr} {operandWf : Bool} {tail bs rest : List Byte} {n : Nat}
    (h : EncodedAs b0 i operandWf tail n) (hwf : operandWf = true) (hbs : bs = tail ++ rest)
    (hsize : EncodeLength.Fits (b0 :: tail) n) : ReadsAs (b0 :: bs) i rest where
  wf := h.wf.trans hwf
  bytes := by rw [h.bytes, hbs, List.cons_append]
  size := by rwa [EncodeLength.Statement, h.bytes, h.len]

/-- A row that agrees with the encoder decodes only what the encoder writes. -/
theorem decodeRow_sound {b0 : Byte} {row : Row} (hrow : row.Agrees b0) {bs rest : List Byte} {i : Instr}
    (h : decodeRow b0 row bs = .ok (i, rest)) : ReadsAs (b0 :: bs) i rest := by
  unfold decodeRow at h
  split at h
  case h_1 => cases h
  case h_2 =>
    cases h
    exact hrow.readsAs rfl rfl (EncodeLength.one rfl)
  case h_3 =>
    obtain ⟨p, hp, hi⟩ := Option.map_eq_some_iff.mp (orTruncated_ok h)
    cases hi
    exact (hrow p.1).readsAs rfl (takeByte_some hp) (EncodeLength.two rfl)
  case h_4 =>
    obtain ⟨p, hp, hi⟩ := Option.map_eq_some_iff.mp (orTruncated_ok h)
    cases hi
    exact (hrow p.1).readsAs rfl (takeWord_some hp) (EncodeLength.three rfl)
  case h_5 m tail =>
    obtain ⟨p, hp, hi⟩ := Option.map_eq_some_iff.mp (orTruncated_ok h)
    cases hi
    obtain ⟨hwf, hbs⟩ := takeRM8_some hp
    refine (hrow p.1 (Reg8.ofNum (regField m))).readsAs hwf ?_ (EncodeLength.rm8Plain _ _ _)
    rw [Reg8.num_ofNum, hbs]
  case h_6 m tail =>
    obtain ⟨p, hp, hi⟩ := Option.map_eq_some_iff.mp (orTruncated_ok h)
    cases hi
    obtain ⟨hwf, hbs⟩ := takeRM16_some hp
    refine (hrow p.1 (Reg16.ofNum (regField m))).readsAs hwf ?_ (EncodeLength.rm16Plain _ _ _)
    rw [Reg16.num_ofNum, hbs]
  case h_7 =>
    split at h
    case h_1 => cases h
    case h_2 mk hmk =>
      obtain ⟨p, hp, hi⟩ := Option.map_eq_some_iff.mp (orTruncated_ok h)
      cases hi
      obtain ⟨hwf, hbs⟩ := takeRM8_some hp
      exact (hrow _ mk hmk p.1).readsAs hwf hbs (EncodeLength.rm8Plain _ _ _)
  case h_8 =>
    split at h
    case h_1 => cases h
    case h_2 mk hmk =>
      obtain ⟨p, hp, hi⟩ := Option.map_eq_some_iff.mp (orTruncated_ok h)
      cases hi
      obtain ⟨hwf, hbs⟩ := takeRM16_some hp
      exact (hrow _ mk hmk p.1).readsAs hwf hbs (EncodeLength.rm16Plain _ _ _)
  case h_9 =>
    split at h
    case h_1 => cases h
    case h_2 mk hmk =>
      obtain ⟨p, hp, himm⟩ := Option.bind_eq_some_iff.mp (orTruncated_ok h)
      obtain ⟨q, hq, hi⟩ := Option.map_eq_some_iff.mp himm
      cases hi
      obtain ⟨hwf, hbs⟩ := takeRM8_some hp
      refine (hrow _ mk hmk p.1 q.1).readsAs hwf ?_ (EncodeLength.rm8Imm _ _ _ _)
      rw [hbs, takeByte_some hq, List.append_assoc, List.singleton_append]
  case h_10 =>
    split at h
    case h_1 => cases h
    case h_2 mk hmk =>
      obtain ⟨p, hp, himm⟩ := Option.bind_eq_some_iff.mp (orTruncated_ok h)
      obtain ⟨q, hq, hi⟩ := Option.map_eq_some_iff.mp himm
      cases hi
      obtain ⟨hwf, hbs⟩ := takeRM16_some hp
      refine (hrow _ mk hmk p.1 q.1).readsAs hwf ?_ (EncodeLength.rm16Imm16 _ _ _ _)
      rw [hbs, takeWord_some hq, List.append_assoc]
  case h_11 =>
    split at h
    case h_1 => cases h
    case h_2 mk hmk =>
      obtain ⟨p, hp, himm⟩ := Option.bind_eq_some_iff.mp (orTruncated_ok h)
      obtain ⟨q, hq, hi⟩ := Option.map_eq_some_iff.mp himm
      cases hi
      obtain ⟨hwf, hbs⟩ := takeRM16_some hp
      refine (hrow _ mk hmk p.1 q.1).readsAs hwf ?_ (EncodeLength.rm16Imm8 _ _ _ _)
      rw [hbs, takeByte_some hq, List.append_assoc, List.singleton_append]
  case h_12 => cases h

theorem decode_sound {bs rest : List Byte} {i : Instr} (h : decode bs = .ok (i, rest)) : ReadsAs bs i rest := by
  cases bs with
  | nil => cases h
  | cons b0 bs => exact decodeRow_sound (rowOf_agrees b0) h

/-- Settles O2: a row decodes only what the encoder writes for that row. -/
theorem decodedBytesAreTheEncoding : Obligations.DecodedBytesAreTheEncoding := fun _ _ _ h =>
  ⟨(decode_sound h).wf, (decode_sound h).bytes⟩

/-- Settles O3: the bytes read are the encoding, and the encoding has the length of its rule's table. -/
theorem decodedLengthIsBytesConsumed : Obligations.DecodedLengthIsBytesConsumed := by
  intro bs i rest h
  obtain ⟨-, hbytes, hlen, hbounds⟩ := decode_sound h
  exact ⟨by rw [hbytes, List.length_append, hlen], hbounds⟩

/-- The encoding of a well-formed instruction has its length: its own decoding reads all of it. -/
theorem encode_length {i : Instr} (h : i.wf = true) : (encode i).length = i.len :=
  (decode_sound (decodeOfEncode i [] h)).size.1

/-! ## Truncated bytes -/

theorem orTruncated_error {r : Option (Instr × List Byte)} {u : Unsupported} (h : orTruncated r = .error u) :
    u = .truncated := by
  cases r with
  | none => exact (Except.error.inj h).symm
  | some p => cases h

/-- Bytes refused for another reason than a missing byte are refused whatever follows them. -/
theorem decodeRow_error_append {b0 : Byte} {row : Row} {bs : List Byte} {u : Unsupported}
    (h : decodeRow b0 row bs = .error u) (hu : u ≠ .truncated) (more : List Byte) :
    decodeRow b0 row (bs ++ more) = .error u := by
  unfold decodeRow at h
  split at h
  case h_1 => exact h
  case h_2 => cases h
  case h_3 | h_4 | h_5 | h_6 => exact absurd (orTruncated_error h) hu
  case h_7 hslot | h_8 hslot | h_9 hslot | h_10 hslot | h_11 hslot =>
    split at h
    case h_1 hslot => simpa only [List.cons_append, decodeRow, hslot] using h
    case h_2 => exact absurd (orTruncated_error h) hu
  case h_12 => exact absurd (Except.error.inj h).symm hu

theorem decode_error_append {bs : List Byte} {u : Unsupported} (h : decode bs = .error u) (hu : u ≠ .truncated)
    (more : List Byte) : decode (bs ++ more) = .error u := by
  cases bs with
  | nil => exact absurd (Except.error.inj h).symm hu
  | cons b0 bs => exact decodeRow_error_append h hu more

/-- Settles O4: were the prefix an instruction, or refused for another reason, so would be the whole encoding, which
decodes to `i` with no byte left. -/
theorem cutEncodingsAreTruncated : Obligations.CutEncodingsAreTruncated := by
  intro i k hwf hk
  have hwhole : decode ((encode i).take k ++ (encode i).drop k) = .ok (i, []) := by
    rw [List.take_append_drop, ← decodeOfEncode i [] hwf, List.append_nil]
  match hcut : decode ((encode i).take k) with
  | .ok (j, rest) =>
    obtain ⟨hj, hbytes, -⟩ := decode_sound hcut
    rw [hbytes, List.append_assoc, decodeOfEncode j _ hj] at hwhole
    have hnil : rest ++ (encode i).drop k = [] := (Prod.mk.inj (Except.ok.inj hwhole)).2
    have hall : (encode i).length ≤ k := List.drop_eq_nil_iff.mp (List.append_eq_nil_iff.mp hnil).2
    rw [encode_length hwf] at hall
    exact absurd hk (Nat.not_lt.mpr hall)
  | .error u =>
    by_cases hu : u = .truncated
    · rw [hu]
    · rw [decode_error_append hcut hu] at hwhole
      cases hwhole

/-! ## The lists written out from the spec -/

/-- The row of a byte that starts no instruction. -/
def Row.isUnsupported : Row → Bool
  | .unsupported => true
  | _ => false

theorem decodeRow_unsupported {row : Row} (h : row.isUnsupported = true) (b0 : Byte) (bs : List Byte) :
    decodeRow b0 row bs = .error (.opcode b0) := by
  cases row with
  | unsupported => rfl
  | _ => cases h

/-- The group row has no instruction in slot `k`. -/
def Row.lacksSlot (k : BitVec 3) : Row → Bool
  | .ext8 slot => (slot k).isNone
  | .ext16 slot => (slot k).isNone
  | .ext8Imm8 slot => (slot k).isNone
  | .ext16Imm16 slot => (slot k).isNone
  | .ext16Imm8 slot => (slot k).isNone
  | _ => false

theorem decodeRow_lacksSlot {row : Row} {m : Byte} (h : row.lacksSlot (regField m) = true) (b0 : Byte)
    (bs : List Byte) : decodeRow b0 row (m :: bs) = .error (.slot b0 m) := by
  cases row with
  | ext8 slot | ext16 slot | ext8Imm8 slot | ext16Imm16 slot | ext16Imm8 slot =>
    have hslot : slot (regField m) = none := Option.isNone_iff_eq_none.mp h
    simp only [decodeRow, hslot]
  | _ => cases h

/-- Settles O5: the bytes and slots of the two lists are unsupported in the opcode map, by evaluation of the map. -/
theorem unsupportedEncodingsAreRefused : Obligations.UnsupportedEncodingsAreRefused := by
  have hopcodes : ∀ b ∈ unsupportedOpcodes, (rowOf b).isUnsupported = true := by decide
  have hslots : ∀ g ∈ unsupportedSlots, ∀ k ∈ g.2, (rowOf g.1).lacksSlot k = true := by decide
  exact ⟨fun b hb => decodeRow_unsupported (hopcodes b hb) b,
    fun g hg m hm => decodeRow_lacksSlot (hslots g hg _ hm) g.1⟩

/-- Settles O6: each word is the encoding of the instruction named, and O1 decodes it. -/
theorem specWordsDecode : Obligations.SpecWordsDecode := by
  have hwords : ∀ p ∈ specWords, p.2.wf = true ∧ p.1 = encode p.2 := by decide
  intro p hp rest
  obtain ⟨hwf, hbytes⟩ := hwords p hp
  rw [hbytes, decodeOfEncode p.2 rest hwf]

end Sys2Proof
end

section
/-! Family `other`, execution. Every access of an instruction is a bounds check, and the checks come before the effect: a
shape is its checks in order, then one state computed without faults. One equation for each shape says so. -/

namespace Sys2Proof.Machine

/-! ## Bounds checks in order -/

/-- `r` behind the bounds checks of the accesses `l`: the first one out of range raises MemoryFault (R252, R259). -/
def guarded {α : Type} (s : State) (l : List Access) (r : Except Fault α) : Except Fault α :=
  match firstOutsideOf s l with
  | some a => .error (.memoryFault a)
  | none => r

section Guarded

variable {α β : Type} {s : State} {l : List Access}

theorem guarded_inside (h : firstOutsideOf s l = none) (r : Except Fault α) : guarded s l r = r := by
  rw [guarded, h]

theorem guarded_outside {a : Word} (h : firstOutsideOf s l = some a) (r : Except Fault α) :
    guarded s l r = .error (.memoryFault a) := by
  rw [guarded, h]

@[simp] theorem guarded_nil (r : Except Fault α) : guarded s [] r = r := rfl

@[simp] theorem guarded_bind (r : Except Fault α) (k : α → Except Fault β) :
    (guarded s l r >>= k) = guarded s l (r >>= k) := by
  cases h : firstOutsideOf s l with
  | none => rw [guarded_inside h, guarded_inside h]
  | some a => rw [guarded_outside h, guarded_outside h]; rfl

/-- Checks after checks are the checks of both lists. -/
theorem guarded_guarded (m : List Access) (r : Except Fault α) : guarded s l (guarded s m r) = guarded s (l ++ m) r := by
  have happend := firstOutsideOf_append s l m
  cases h : firstOutsideOf s l with
  | none =>
    rw [h, Option.none_or] at happend
    rw [guarded_inside h, guarded, guarded, happend]
  | some a =>
    rw [h, Option.some_or] at happend
    rw [guarded_outside h, guarded_outside happend]

/-- An access that was checked once needs no second check. -/
theorem guarded_twice (m : List Access) (r : Except Fault α) :
    guarded s l (guarded s m (guarded s l r)) = guarded s (l ++ m) r := by
  rw [← guarded_guarded]
  cases h : firstOutsideOf s l with
  | none => rw [guarded_inside h r]
  | some a => rw [guarded_outside h, guarded_outside h]

end Guarded

/-! ## Reading, writing and the stack as one check each -/

/-- The access of a byte source. -/
def src8Access (s : State) : Src8 → List Access
  | .rm x => rm8Access s x
  | .imm _ => []

/-- The access of a word source. -/
def src16Access (s : State) : Src16 → List Access
  | .rm x => rm16Access s x
  | .imm _ => []

theorem readRM8_guarded (s : State) (x : RM8) : readRM8 s x = guarded s (rm8Access s x) (.ok (value8 s x)) := by
  obtain ⟨h, hread, -⟩ | ⟨a, h, hread, -⟩ := rm8_access s x
  · rw [hread, guarded_inside h]
  · rw [hread, guarded_outside h]

theorem writeRM8_guarded (s : State) (x : RM8) (v : Byte) :
    writeRM8 s x v = guarded s (rm8Access s x) (.ok (put8 s x v)) := by
  obtain ⟨h, -, hwrite⟩ | ⟨a, h, -, hwrite⟩ := rm8_access s x
  · rw [hwrite, guarded_inside h]
  · rw [hwrite, guarded_outside h]

theorem readSrc8_guarded (s : State) (x : Src8) : readSrc8 s x = guarded s (src8Access s x) (.ok (srcValue8 s x)) := by
  cases x with
  | rm y => exact readRM8_guarded s y
  | imm v => rfl

theorem readRM16_guarded (s : State) (x : RM16) : readRM16 s x = guarded s (rm16Access s x) (.ok (value16 s x)) := by
  obtain ⟨h, hread, -⟩ | ⟨a, h, hread, -⟩ := rm16_access s x
  · rw [hread, guarded_inside h]
  · rw [hread, guarded_outside h]

theorem writeRM16_guarded (s : State) (x : RM16) (v : Word) :
    writeRM16 s x v = guarded s (rm16Access s x) (.ok (put16 s x v)) := by
  obtain ⟨h, -, hwrite⟩ | ⟨a, h, -, hwrite⟩ := rm16_access s x
  · rw [hwrite, guarded_inside h]
  · rw [hwrite, guarded_outside h]

theorem readSrc16_guarded (s : State) (x : Src16) :
    readSrc16 s x = guarded s (src16Access s x) (.ok (srcValue16 s x)) := by
  cases x with
  | rm y => exact readRM16_guarded s y
  | imm v => rfl

theorem push_guarded (s : State) (v : Word) : s.push v = guarded s [(s.loweredSp, 2)] (.ok (pushed s v)) := by
  obtain ⟨h, hpush⟩ | ⟨h, hpush⟩ := push_access s v
  · rw [hpush, guarded_inside h]
  · rw [hpush, guarded_outside h]

theorem pop_guarded (s : State) : s.pop =
    guarded s [(s.regs.sp, 2)] (.ok (s.mem.readWord s.regs.sp.toNat, s.setReg .sp (s.regs.sp + 2))) := by
  obtain ⟨h, hpop⟩ | ⟨h, hpop⟩ := pop_access s
  · rw [hpop, guarded_inside h]
  · rw [hpop, guarded_outside h]

/-- PUSH SP reads no memory, so its value is behind the same checks as any other. -/
theorem pushedValue_guarded (s : State) (src : RM16) :
    pushedValue s src = guarded s (rm16Access s src) (.ok (pushValue s src)) := by
  unfold pushedValue pushValue
  by_cases h : src = .reg .sp
  · rw [if_pos h, if_pos h, h]
    rfl
  · rw [if_neg h, if_neg h, readRM16_guarded]

/-! ## The shapes -/

section Shapes

variable (s : State) (len : Nat)

theorem binary8_eq (op : Byte → Byte → Byte) (fl : Flags → Byte → Byte → Flags) (dst : RM8) (src : Src8) :
    binary8 op fl dst src len s = commit s (guarded s (rm8Access s dst ++ src8Access s src)
      (.ok (((put8 s dst (op (value8 s dst) (srcValue8 s src))).setFlags
        (fl s.flags (value8 s dst) (srcValue8 s src))).advance len))) := by
  simp only [binary8, readRM8_guarded, readSrc8_guarded, writeRM8_guarded, guarded_bind, except_ok_bind, except_pure,
    guarded_twice]

theorem binary16_eq (op : Word → Word → Word) (fl : Flags → Word → Word → Flags) (dst : RM16) (src : Src16) :
    binary16 op fl dst src len s = commit s (guarded s (rm16Access s dst ++ src16Access s src)
      (.ok (((put16 s dst (op (value16 s dst) (srcValue16 s src))).setFlags
        (fl s.flags (value16 s dst) (srcValue16 s src))).advance len))) := by
  simp only [binary16, readRM16_guarded, readSrc16_guarded, writeRM16_guarded, guarded_bind, except_ok_bind, except_pure,
    guarded_twice]

theorem compare8_eq (fl : Flags → Byte → Byte → Flags) (dst : RM8) (src : Src8) :
    compare8 fl dst src len s = commit s (guarded s (rm8Access s dst ++ src8Access s src)
      (.ok ((s.setFlags (fl s.flags (value8 s dst) (srcValue8 s src))).advance len))) := by
  simp only [compare8, readRM8_guarded, readSrc8_guarded, guarded_bind, except_ok_bind, except_pure, guarded_guarded]

theorem compare16_eq (fl : Flags → Word → Word → Flags) (dst : RM16) (src : Src16) :
    compare16 fl dst src len s = commit s (guarded s (rm16Access s dst ++ src16Access s src)
      (.ok ((s.setFlags (fl s.flags (value16 s dst) (srcValue16 s src))).advance len))) := by
  simp only [compare16, readRM16_guarded, readSrc16_guarded, guarded_bind, except_ok_bind, except_pure, guarded_guarded]

theorem unary8_eq (op : Byte → Byte) (fl : Flags → Byte → Flags) (dst : RM8) :
    unary8 op fl dst len s = commit s (guarded s (rm8Access s dst)
      (.ok (((put8 s dst (op (value8 s dst))).setFlags (fl s.flags (value8 s dst))).advance len))) := by
  have htwice := guarded_twice (s := s) (l := rm8Access s dst) [] (α := State)
  simp only [guarded_nil, List.append_nil] at htwice
  simp only [unary8, readRM8_guarded, writeRM8_guarded, guarded_bind, except_ok_bind, except_pure, htwice]

theorem unary16_eq (op : Word → Word) (fl : Flags → Word → Flags) (dst : RM16) :
    unary16 op fl dst len s = commit s (guarded s (rm16Access s dst)
      (.ok (((put16 s dst (op (value16 s dst))).setFlags (fl s.flags (value16 s dst))).advance len))) := by
  have htwice := guarded_twice (s := s) (l := rm16Access s dst) [] (α := State)
  simp only [guarded_nil, List.append_nil] at htwice
  simp only [unary16, readRM16_guarded, writeRM16_guarded, guarded_bind, except_ok_bind, except_pure, htwice]

theorem move8_eq (dst : RM8) (src : Src8) : move8 dst src len s =
    commit s (guarded s (src8Access s src ++ rm8Access s dst) (.ok ((put8 s dst (srcValue8 s src)).advance len))) := by
  simp only [move8, readSrc8_guarded, writeRM8_guarded, guarded_bind, except_ok_bind, except_pure, guarded_guarded]

theorem move16_eq (dst : RM16) (src : Src16) : move16 dst src len s =
    commit s (guarded s (src16Access s src ++ rm16Access s dst) (.ok ((put16 s dst (srcValue16 s src)).advance len))) := by
  simp only [move16, readSrc16_guarded, writeRM16_guarded, guarded_bind, except_ok_bind, except_pure, guarded_guarded]

theorem pushShape_eq (src : RM16) : pushShape src len s =
    commit s (guarded s (rm16Access s src ++ [(s.loweredSp, 2)]) (.ok ((pushed s (pushValue s src)).advance len))) := by
  simp only [pushShape, pushedValue_guarded, push_guarded, guarded_bind, except_ok_bind, except_pure, guarded_guarded]

/-- The address of a memory destination is the same before and after SP is raised. -/
theorem rm16Access_setReg_sp (v : Word) (dst : RM16) : rm16Access (s.setReg .sp v) dst = rm16Access s dst := by
  cases dst with
  | reg r => rfl
  | mem m => rw [rm16Access, State.setReg_regs, effAddr_set_sp, rm16Access]

theorem popShape_eq (dst : RM16) : popShape dst len s =
    commit s (guarded s ((s.regs.sp, 2) :: rm16Access s dst)
      (.ok ((put16 (s.setReg .sp (s.regs.sp + 2)) dst (s.mem.readWord s.regs.sp.toNat)).advance len))) := by
  have hsize : ∀ (v : Word) (l : List Access) (r : Except Fault State), guarded (s.setReg .sp v) l r = guarded s l r :=
    fun _ _ _ => rfl
  simp only [popShape, pop_guarded, writeRM16_guarded, guarded_bind, except_ok_bind, except_pure, rm16Access_setReg_sp,
    hsize, guarded_guarded, List.singleton_append]

theorem mul8_eq (src : RM8) : mul8 src len s = commit s (guarded s (rm8Access s src)
    (.ok (((s.setReg .ax (BitVec.ofNat 16 ((s.regs.get8 .al).toNat * (value8 s src).toNat))).setFlags
      (s.flags.afterMul ((s.regs.get8 .al).toNat * (value8 s src).toNat / 2 ^ 8))).advance len))) := by
  simp only [mul8, readRM8_guarded, guarded_bind, except_ok_bind, except_pure]

theorem mul16_eq (src : RM16) : mul16 src len s = commit s (guarded s (rm16Access s src)
    (.ok ((((s.setReg .ax (BitVec.ofNat 16 (s.regs.ax.toNat * (value16 s src).toNat))).setReg .dx
      (BitVec.ofNat 16 (s.regs.ax.toNat * (value16 s src).toNat / 2 ^ 16))).setFlags
      (s.flags.afterMul (s.regs.ax.toNat * (value16 s src).toNat / 2 ^ 16))).advance len))) := by
  simp only [mul16, readRM16_guarded, guarded_bind, except_ok_bind, except_pure]

/-- The divisor was read: what is left of DIV and IDIV is the division, which may raise, and the registers. -/
def divided {α : Type} (put : α → State) (q : Except Fault α) : Except Fault State := q.map fun qr => (put qr).advance len

theorem div8_eq (src : RM8) : div8 src len s = commit s (guarded s (rm8Access s src)
    (divided len (fun qr => s.putQuotient8 (BitVec.ofNat 8 qr.1) (BitVec.ofNat 8 qr.2))
      (divideUnsigned 8 s.regs.ax.toNat (value8 s src).toNat))) := by
  simp only [div8, readRM8_guarded, guarded_bind, except_ok_bind]
  rfl

theorem div16_eq (src : RM16) : div16 src len s = commit s (guarded s (rm16Access s src)
    (divided len (fun qr => s.putQuotient16 (BitVec.ofNat 16 qr.1) (BitVec.ofNat 16 qr.2))
      (divideUnsigned 16 s.dxax.toNat (value16 s src).toNat))) := by
  simp only [div16, readRM16_guarded, guarded_bind, except_ok_bind]
  rfl

theorem idiv8_eq (src : RM8) : idiv8 src len s = commit s (guarded s (rm8Access s src)
    (divided len (fun qr => s.putQuotient8 (BitVec.ofInt 8 qr.1) (BitVec.ofInt 8 qr.2))
      (divideSigned 8 s.regs.ax.toInt (value8 s src).toInt))) := by
  simp only [idiv8, readRM8_guarded, guarded_bind, except_ok_bind]
  rfl

theorem idiv16_eq (src : RM16) : idiv16 src len s = commit s (guarded s (rm16Access s src)
    (divided len (fun qr => s.putQuotient16 (BitVec.ofInt 16 qr.1) (BitVec.ofInt 16 qr.2))
      (divideSigned 16 s.dxax.toInt (value16 s src).toInt))) := by
  simp only [idiv16, readRM16_guarded, guarded_bind, except_ok_bind]
  rfl

variable {l : List Access} {a : Word}

theorem jumpTo_eq : jumpTo (guarded s l (.ok a)) s = commit s (guarded s l (.ok (s.setPc a))) := by
  simp only [jumpTo, guarded_bind, except_ok_bind, except_pure]

theorem callTo_eq : callTo (guarded s l (.ok a)) len s =
    commit s (guarded s (l ++ [(s.loweredSp, 2)]) (.ok ((pushed s (s.next len)).setPc a))) := by
  simp only [callTo, push_guarded, guarded_bind, except_ok_bind, except_pure, guarded_guarded]

theorem returnReleasing_eq (k : Word) : returnReleasing k s = commit s (guarded s [(s.regs.sp, 2)]
    (.ok ((s.setReg .sp (s.regs.sp + 2 + k)).setPc (s.mem.readWord s.regs.sp.toNat)))) := by
  simp only [returnReleasing, pop_guarded, guarded_bind, except_ok_bind, except_pure]
  rfl

end Shapes

end Sys2Proof.Machine
end

section
/-! Family `other`, what an instruction may touch. -/

namespace Sys2Proof.Machine

/-! ## Changes to registers, flags and memory -/

/-- Outside the halves `l` the registers `g'` are `g`. -/
def RegsKept (l : List RegHalf) (g g' : Regs) : Prop := ∀ h, h ∉ l → g'.half h = g.half h

theorem RegsKept.refl (l : List RegHalf) (g : Regs) : RegsKept l g g := fun _ _ => rfl

theorem RegsKept.trans {l m : List RegHalf} {g g' g'' : Regs} (h : RegsKept l g g') (h' : RegsKept m g' g'') :
    RegsKept (l ++ m) g g'' := fun x hx => by
  obtain ⟨hl, hm⟩ := not_or.mp (mt List.mem_append.mpr hx)
  rw [h' x hm, h x hl]

theorem RegsKept.set (g : Regs) (r : Reg16) (v : Word) : RegsKept (bothHalves r) g (g.set r v) := fun ⟨q, b⟩ hx => by
  have hq : q ≠ r := by
    rintro rfl
    cases b <;> simp [bothHalves] at hx
  rw [Regs.half_set, if_neg hq]

theorem RegsKept.set8 (g : Regs) (r : Reg8) (v : Byte) : RegsKept [(wholeOf r, isHigh r)] g (g.set8 r v) := fun x hx => by
  rw [Regs.half_set8, if_neg fun hx' => hx (List.mem_singleton.mpr hx')]

theorem RegsKept.put8 (s : State) (d : RM8) (v : Byte) : RegsKept (rm8Halves d) s.regs (put8 s d v).regs := by
  cases d with
  | reg r => exact .set8 s.regs r v
  | mem m => exact .refl _ _

theorem RegsKept.put16 (s : State) (d : RM16) (v : Word) : RegsKept (rm16Halves d) s.regs (put16 s d v).regs := by
  cases d with
  | reg r => exact .set s.regs r v
  | mem m => exact .refl _ _

/-- The flags with TF, IF and DF set. -/
def Flags.withControl (f : Flags) (tf if_ df : Bool) : Flags := { f with trap := tf, interrupt := if_, direction := df }

/-- `fl` writes no flag outside `l`, and neither writes nor reads TF, IF and DF. -/
structure WritesFlags (l : List FlagName) (fl : Flags → Flags) : Prop where
  keeps : ∀ f n, n ∉ l → (fl f).get n = f.get n
  commutes : ∀ f tf if_ df, fl (f.withControl tf if_ df) = (fl f).withControl tf if_ df

theorem WritesFlags.id : WritesFlags [] fun f => f := ⟨fun _ _ _ => rfl, fun _ _ _ _ => rfl⟩

theorem afterAdd_writes {n : Nat} (a b : BitVec n) : WritesFlags arithFlags (·.afterAdd a b) where
  keeps f x hx := by
    cases x
    case tf | if_ | df => rfl
    all_goals exact absurd (by decide) hx
  commutes _ _ _ _ := rfl

theorem afterSub_writes {n : Nat} (a b : BitVec n) : WritesFlags arithFlags (·.afterSub a b) where
  keeps f x hx := by
    cases x
    case tf | if_ | df => rfl
    all_goals exact absurd (by decide) hx
  commutes _ _ _ _ := rfl

theorem afterLogic_writes {n : Nat} (r : BitVec n) : WritesFlags logicFlags (·.afterLogic r) where
  keeps f x hx := by
    cases x
    case af | tf | if_ | df => rfl
    all_goals exact absurd (by decide) hx
  commutes _ _ _ _ := rfl

theorem afterMul_writes (high : Nat) : WritesFlags mulFlags (·.afterMul high) where
  keeps f x hx := by
    cases x
    case cf | of_ => exact absurd (by decide) hx
    all_goals rfl
  commutes _ _ _ _ := rfl

/-- `m'` is `m` with the bytes `l` stored. -/
structure Stored (l : List (Nat × Byte)) (m m' : Memory) : Prop where
  frame : ∀ a, a ∉ l.map Prod.fst → m'.read a = m.read a
  reads : m.wf → ∀ a v, (a, v) ∈ l → m'.read a = v
  wf : m.wf → m'.wf
  inside : ∀ n, (∀ c ∈ m, c.1 < n) → (∀ a ∈ l.map Prod.fst, a < n) → ∀ c ∈ m', c.1 < n

theorem Stored.nothing (m : Memory) : Stored [] m m where
  frame _ _ := rfl
  reads _ _ _ h := nomatch h
  wf := id
  inside _ h _ := h

theorem Stored.word (m : Memory) (a v : Word) : Stored (wordStore a v) m (m.writeWord a.toNat v) where
  frame x hx := by
    simp only [wordStore, List.map_cons, List.map_nil, List.mem_cons, not_or] at hx
    exact m.read_writeWord_of_ne v hx.1 hx.2.1
  reads hm _ _ h := read_wordStore hm h
  wf hm := Memory.writeWord_wf hm _ _
  inside n hm hl := Memory.writeWord_inside v hm (hl (a.toNat + 1) (by simp [wordStore]))

theorem Stored.put8 (s : State) (d : RM8) (v : Byte) : Stored (rm8Store s d v) s.mem (put8 s d v).mem := by
  cases d with
  | reg r => exact .nothing _
  | mem m =>
    exact {
      frame := fun x hx => s.mem.read_write_of_ne v fun h => hx (List.mem_singleton.mpr h)
      reads := fun hm a b h => read_rm8Store hm h
      wf := fun hm => Memory.write_wf hm _ v
      inside := fun n hm hl => Memory.write_inside v hm (hl _ (List.mem_singleton.mpr rfl)) }

theorem Stored.put16 (s : State) (d : RM16) (v : Word) : Stored (rm16Store s d v) s.mem (put16 s d v).mem := by
  cases d with
  | reg r => exact .nothing _
  | mem m => exact .word _ _ _

/-! ## Sessions that differ in the control flags -/

section ControlFlags

variable (s : State) (tf if_ df : Bool)

theorem value8_withControlFlags (x : RM8) : value8 (s.withControlFlags tf if_ df) x = value8 s x := rfl
theorem value16_withControlFlags (x : RM16) : value16 (s.withControlFlags tf if_ df) x = value16 s x := rfl
theorem srcValue8_withControlFlags (x : Src8) : srcValue8 (s.withControlFlags tf if_ df) x = srcValue8 s x := rfl
theorem srcValue16_withControlFlags (x : Src16) : srcValue16 (s.withControlFlags tf if_ df) x = srcValue16 s x := rfl

theorem put8_withControlFlags (d : RM8) (v : Byte) :
    put8 (s.withControlFlags tf if_ df) d v = (put8 s d v).withControlFlags tf if_ df := by cases d <;> rfl

theorem put16_withControlFlags (d : RM16) (v : Word) :
    put16 (s.withControlFlags tf if_ df) d v = (put16 s d v).withControlFlags tf if_ df := by cases d <;> rfl

end ControlFlags

end Sys2Proof.Machine
end

section
/-! Family `other`, what an instruction may touch: the meaning of every instruction keeps to its row in each of the tables of
Machine/Effects.lean, and does not depend on TF, IF and DF. One lemma for each shape, then one case for each instruction. -/

namespace Sys2Proof.Machine

/-! ## Keeping to the tables -/

/-- The rows of one instruction in the tables: what it may write, its accesses and stores on a session, what it may raise
beside MemoryFault, and the Status it ends with from the one it began with. -/
structure Tables where
  halves : List RegHalf
  flags : List FlagName
  accesses : State → List Access
  stores : State → List (Nat × Byte)
  faults : List Fault
  status : Status → Status

/-- `t` is a state in which an instruction with these tables may complete on `s`. -/
structure Completes (T : Tables) (s t : State) : Prop where
  regs : RegsKept T.halves s.regs t.regs
  flags : ∀ n, n ∉ T.flags → t.flags.get n = s.flags.get n
  memory : Stored (T.stores s) s.mem t.mem
  status : t.status = T.status s.status
  steps : t.steps = s.steps
  params : t.params = s.params

/-- The meaning `m` is the bounds checks of its accesses and then `effect`, which completes or raises as the tables say and
is the same whatever TF, IF and DF are. -/
structure HasEffect (m : State → Result State) (T : Tables) (effect : State → Except Fault State) : Prop where
  checks : ∀ s, m s = commit s (guarded s (T.accesses s) (effect s))
  completes : ∀ s t, effect s = .ok t → Completes T s t
  raises : ∀ s f, effect s = .error f → f ∈ T.faults
  commutes : ∀ s tf if_ df,
    effect (s.withControlFlags tf if_ df) = (effect s).map (·.withControlFlags tf if_ df)

/-- The meaning `m` keeps to the tables `T`. -/
def KeepsTo (m : State → Result State) (T : Tables) : Prop := ∃ effect, HasEffect m T effect

/-- A meaning whose effect always completes, in the state `result`. -/
theorem KeepsTo.ofState {m : State → Result State} {T : Tables} (result : State → State)
    (checks : ∀ s, m s = commit s (guarded s (T.accesses s) (.ok (result s))))
    (completes : ∀ s, Completes T s (result s))
    (commutes : ∀ s tf if_ df,
      result (s.withControlFlags tf if_ df) = (result s).withControlFlags tf if_ df) : KeepsTo m T :=
  ⟨fun s => .ok (result s), {
    checks := checks
    completes := fun s _ h => Except.ok.inj h ▸ completes s
    raises := fun _ _ h => nomatch h
    commutes := fun s tf if_ df => congrArg Except.ok (commutes s tf if_ df) }⟩

/-! ## The shapes -/

section Shapes

variable {F : List FlagName} {A : State → List Access} {W : State → List (Nat × Byte)} {len : Nat}

/-- Writing flags and pc over a written operand. -/
theorem completes_put8 {fl : Flags → Flags} (hfl : WritesFlags F fl) {s : State} {d : RM8} {v : Byte}
    (hW : W s = rm8Store s d v) :
    Completes ⟨rm8Halves d, F, A, W, [], id⟩ s (((put8 s d v).setFlags (fl s.flags)).advance len) where
  regs := .put8 s d v
  flags := hfl.keeps s.flags
  memory := show Stored (W s) _ _ from hW ▸ .put8 s d v
  status := put8_status s d v
  steps := put8_steps s d v
  params := put8_params s d v

theorem completes_put16 {fl : Flags → Flags} (hfl : WritesFlags F fl) {s : State} {d : RM16} {v : Word}
    (hW : W s = rm16Store s d v) :
    Completes ⟨rm16Halves d, F, A, W, [], id⟩ s (((put16 s d v).setFlags (fl s.flags)).advance len) where
  regs := .put16 s d v
  flags := hfl.keeps s.flags
  memory := show Stored (W s) _ _ from hW ▸ .put16 s d v
  status := put16_status s d v
  steps := put16_steps s d v
  params := put16_params s d v

/-- An instruction that changes flags and pc only. -/
theorem completes_setFlags {fl : Flags → Flags} (hfl : WritesFlags F fl) (s : State) :
    Completes ⟨[], F, A, fun _ => [], [], id⟩ s ((s.setFlags (fl s.flags)).advance len) where
  regs := .refl _ _
  flags := hfl.keeps s.flags
  memory := .nothing _
  status := rfl
  steps := rfl
  params := rfl

theorem put8_setFlags_withControlFlags {fl : Flags → Flags} (hfl : WritesFlags F fl) (s : State) (d : RM8) (v : Byte)
    (tf if_ df : Bool) :
    ((put8 (s.withControlFlags tf if_ df) d v).setFlags (fl (s.flags.withControl tf if_ df))).advance len =
      (((put8 s d v).setFlags (fl s.flags)).advance len).withControlFlags tf if_ df := by
  rw [put8_withControlFlags, hfl.commutes]
  rfl

theorem put16_setFlags_withControlFlags {fl : Flags → Flags} (hfl : WritesFlags F fl) (s : State) (d : RM16) (v : Word)
    (tf if_ df : Bool) :
    ((put16 (s.withControlFlags tf if_ df) d v).setFlags (fl (s.flags.withControl tf if_ df))).advance len =
      (((put16 s d v).setFlags (fl s.flags)).advance len).withControlFlags tf if_ df := by
  rw [put16_withControlFlags, hfl.commutes]
  rfl

theorem binary8_keeps {op : Byte → Byte → Byte} {fl : Flags → Byte → Byte → Flags}
    (hfl : ∀ a b, WritesFlags F (fl · a b)) {dst : RM8} {src : Src8}
    (hA : A = fun s => rm8Access s dst ++ src8Access s src) :
    KeepsTo (binary8 op fl dst src len)
      ⟨rm8Halves dst, F, A, fun s => rm8Store s dst (op (value8 s dst) (srcValue8 s src)), [], id⟩ := by
  subst hA
  exact .ofState _ (fun s => binary8_eq s len op fl dst src) (fun s => completes_put8 (hfl _ _) rfl)
    fun s tf if_ df => by
      rw [value8_withControlFlags, srcValue8_withControlFlags]
      exact put8_setFlags_withControlFlags (hfl _ _) s dst _ tf if_ df

theorem binary16_keeps {op : Word → Word → Word} {fl : Flags → Word → Word → Flags}
    (hfl : ∀ a b, WritesFlags F (fl · a b)) {dst : RM16} {src : Src16}
    (hA : A = fun s => rm16Access s dst ++ src16Access s src) :
    KeepsTo (binary16 op fl dst src len)
      ⟨rm16Halves dst, F, A, fun s => rm16Store s dst (op (value16 s dst) (srcValue16 s src)), [], id⟩ := by
  subst hA
  exact .ofState _ (fun s => binary16_eq s len op fl dst src) (fun s => completes_put16 (hfl _ _) rfl)
    fun s tf if_ df => by
      rw [value16_withControlFlags, srcValue16_withControlFlags]
      exact put16_setFlags_withControlFlags (hfl _ _) s dst _ tf if_ df

theorem compare8_keeps {fl : Flags → Byte → Byte → Flags} (hfl : ∀ a b, WritesFlags F (fl · a b)) {dst : RM8}
    {src : Src8} (hA : A = fun s => rm8Access s dst ++ src8Access s src) :
    KeepsTo (compare8 fl dst src len) ⟨[], F, A, fun _ => [], [], id⟩ := by
  subst hA
  exact .ofState _ (fun s => compare8_eq s len fl dst src) (fun s => completes_setFlags (hfl _ _) s)
    fun s tf if_ df => congrArg (fun f => (s.setFlags f).advance len) ((hfl _ _).commutes s.flags tf if_ df)

theorem compare16_keeps {fl : Flags → Word → Word → Flags} (hfl : ∀ a b, WritesFlags F (fl · a b)) {dst : RM16}
    {src : Src16} (hA : A = fun s => rm16Access s dst ++ src16Access s src) :
    KeepsTo (compare16 fl dst src len) ⟨[], F, A, fun _ => [], [], id⟩ := by
  subst hA
  exact .ofState _ (fun s => compare16_eq s len fl dst src) (fun s => completes_setFlags (hfl _ _) s)
    fun s tf if_ df => congrArg (fun f => (s.setFlags f).advance len) ((hfl _ _).commutes s.flags tf if_ df)

theorem unary8_keeps {op : Byte → Byte} {fl : Flags → Byte → Flags} (hfl : ∀ a, WritesFlags F (fl · a)) {dst : RM8} :
    KeepsTo (unary8 op fl dst len)
      ⟨rm8Halves dst, F, (rm8Access · dst), fun s => rm8Store s dst (op (value8 s dst)), [], id⟩ :=
  .ofState _ (fun s => unary8_eq s len op fl dst) (fun s => completes_put8 (hfl _) rfl)
    fun s tf if_ df => by
      rw [value8_withControlFlags]
      exact put8_setFlags_withControlFlags (hfl _) s dst _ tf if_ df

theorem unary16_keeps {op : Word → Word} {fl : Flags → Word → Flags} (hfl : ∀ a, WritesFlags F (fl · a)) {dst : RM16} :
    KeepsTo (unary16 op fl dst len)
      ⟨rm16Halves dst, F, (rm16Access · dst), fun s => rm16Store s dst (op (value16 s dst)), [], id⟩ :=
  .ofState _ (fun s => unary16_eq s len op fl dst) (fun s => completes_put16 (hfl _) rfl)
    fun s tf if_ df => by
      rw [value16_withControlFlags]
      exact put16_setFlags_withControlFlags (hfl _) s dst _ tf if_ df

theorem move8_keeps {dst : RM8} {src : Src8} (hA : A = fun s => src8Access s src ++ rm8Access s dst) :
    KeepsTo (move8 dst src len) ⟨rm8Halves dst, [], A, fun s => rm8Store s dst (srcValue8 s src), [], id⟩ := by
  subst hA
  refine .ofState _ (fun s => move8_eq s len dst src) (fun s => ?_) fun s tf if_ df => ?_
  · have hflags := put8_flags s dst (srcValue8 s src)
    exact ⟨.put8 _ _ _, fun _ _ => by rw [State.advance_flags, hflags], .put8 _ _ _, put8_status _ _ _,
      put8_steps _ _ _, put8_params _ _ _⟩
  · exact congrArg (·.advance len) (put8_withControlFlags s tf if_ df dst _)

theorem move16_keeps {dst : RM16} {src : Src16} (hA : A = fun s => src16Access s src ++ rm16Access s dst) :
    KeepsTo (move16 dst src len) ⟨rm16Halves dst, [], A, fun s => rm16Store s dst (srcValue16 s src), [], id⟩ := by
  subst hA
  refine .ofState _ (fun s => move16_eq s len dst src) (fun s => ?_) fun s tf if_ df => ?_
  · have hflags := put16_flags s dst (srcValue16 s src)
    exact ⟨.put16 _ _ _, fun _ _ => by rw [State.advance_flags, hflags], .put16 _ _ _, put16_status _ _ _,
      put16_steps _ _ _, put16_params _ _ _⟩
  · exact congrArg (·.advance len) (put16_withControlFlags s tf if_ df dst _)

theorem pushShape_keeps {src : RM16} (hA : A = fun s => rm16Access s src ++ [(s.loweredSp, 2)])
    (hW : W = fun s => wordStore s.loweredSp (pushValue s src)) :
    KeepsTo (pushShape src len) ⟨bothHalves .sp, [], A, W, [], id⟩ := by
  subst hA hW
  exact .ofState _ (fun s => pushShape_eq s len src)
    (fun s => ⟨.set s.regs .sp _, fun _ _ => rfl, .word _ _ _, rfl, rfl, rfl⟩) fun _ _ _ _ => rfl

/-- The cells of a memory destination are the same before and after SP is raised. -/
theorem rm16Store_setReg_sp (s : State) (w : Word) (dst : RM16) (v : Word) :
    rm16Store (s.setReg .sp w) dst v = rm16Store s dst v := by
  cases dst with
  | reg r => rfl
  | mem m => rw [rm16Store, State.setReg_regs, effAddr_set_sp, rm16Store]

theorem popShape_keeps {dst : RM16} :
    KeepsTo (popShape dst len) ⟨bothHalves .sp ++ rm16Halves dst, [], fun s => (s.regs.sp, 2) :: rm16Access s dst,
      fun s => rm16Store s dst (s.mem.readWord s.regs.sp.toNat), [], id⟩ := by
  refine .ofState _ (fun s => popShape_eq s len dst) (fun s => ?_) fun s tf if_ df => ?_
  · refine ⟨.trans (.set s.regs .sp _) (.put16 _ _ _), fun _ _ => ?_, ?_, put16_status _ _ _, put16_steps _ _ _,
      put16_params _ _ _⟩
    · rw [State.advance_flags, put16_flags, State.setReg_flags]
    · have hstored := Stored.put16 (s.setReg .sp (s.regs.sp + 2)) dst (s.mem.readWord s.regs.sp.toNat)
      rwa [rm16Store_setReg_sp] at hstored
  · exact congrArg (·.advance len) (put16_withControlFlags (s.setReg .sp _) tf if_ df dst _)

theorem mul8_keeps {src : RM8} :
    KeepsTo (mul8 src len) ⟨bothHalves .ax, mulFlags, (rm8Access · src), fun _ => [], [], id⟩ :=
  .ofState _ (fun s => mul8_eq s len src)
    (fun s => ⟨.set s.regs .ax _, (afterMul_writes _).keeps s.flags, .nothing _, rfl, rfl, rfl⟩) fun _ _ _ _ => rfl

theorem mul16_keeps {src : RM16} :
    KeepsTo (mul16 src len) ⟨bothHalves .ax ++ bothHalves .dx, mulFlags, (rm16Access · src), fun _ => [], [], id⟩ :=
  .ofState _ (fun s => mul16_eq s len src)
    (fun s => ⟨.trans (.set s.regs .ax _) (.set _ .dx _), (afterMul_writes _).keeps s.flags, .nothing _, rfl, rfl, rfl⟩)
    fun _ _ _ _ => rfl

/-- The two faults of a division (R253, R254). -/
def divisionFaults : List Fault := [.divideByZero, .divideOverflow]

theorem divideUnsigned_raises {n num b : Nat} {f : Fault} (h : divideUnsigned n num b = .error f) :
    f ∈ divisionFaults := by
  unfold divideUnsigned at h
  split at h
  · cases h; decide
  · split at h
    · cases h; decide
    · cases h

theorem divideSigned_raises {n : Nat} {num d : Int} {f : Fault} (h : divideSigned n num d = .error f) :
    f ∈ divisionFaults := by
  unfold divideSigned at h
  split at h
  · cases h; decide
  · split at h
    · cases h; decide
    · cases h

/-- A division: the divisor's access, then a quotient or one of the two faults, no flag and no memory written. -/
theorem division_keeps {α : Type} {m : State → Result State} {H : List RegHalf} {put : State → α → State}
    {quotient : State → Except Fault α}
    (checks : ∀ s, m s = commit s (guarded s (A s) (divided len (put s) (quotient s))))
    (raises : ∀ s f, quotient s = .error f → f ∈ divisionFaults)
    (hregs : ∀ s q, RegsKept H s.regs (put s q).regs)
    (hput : ∀ s q, put s q = { s with regs := (put s q).regs })
    (commutes : ∀ s tf if_ df, put (s.withControlFlags tf if_ df) = (put s · |>.withControlFlags tf if_ df) ∧
      quotient (s.withControlFlags tf if_ df) = quotient s) :
    KeepsTo m ⟨H, [], A, fun _ => [], divisionFaults, id⟩ := by
  refine ⟨fun s => divided len (put s) (quotient s), checks, fun s t h => ?_, fun s f h => ?_, fun s tf if_ df => ?_⟩
  · unfold divided at h
    cases hq : quotient s with
    | error f => rw [hq] at h; cases h
    | ok q =>
      rw [hq] at h
      cases h
      have hregs := hregs s q
      show Completes _ s ((put s q).advance len)
      rw [hput]
      exact ⟨hregs, fun _ _ => rfl, .nothing _, rfl, rfl, rfl⟩
  · unfold divided at h
    cases hq : quotient s with
    | error g => rw [hq] at h; cases h; exact raises s _ hq
    | ok q => rw [hq] at h; cases h
  · obtain ⟨hput, hquot⟩ := commutes s tf if_ df
    rw [hput, hquot]
    cases quotient s <;> rfl

theorem putQuotient8_kept (s : State) (q r : Byte) : RegsKept (bothHalves .ax) s.regs (s.putQuotient8 q r).regs :=
  .trans (.set8 s.regs .al q) (.set8 _ .ah r)

theorem putQuotient16_kept (s : State) (q r : Word) :
    RegsKept (bothHalves .ax ++ bothHalves .dx) s.regs (s.putQuotient16 q r).regs :=
  .trans (.set s.regs .ax q) (.set _ .dx r)

theorem div8_keeps {src : RM8} :
    KeepsTo (div8 src len) ⟨bothHalves .ax, [], (rm8Access · src), fun _ => [], divisionFaults, id⟩ :=
  division_keeps (fun s => div8_eq s len src) (fun _ _ => divideUnsigned_raises) (fun s _ => putQuotient8_kept s _ _)
    (fun _ _ => rfl) fun _ _ _ _ => ⟨rfl, rfl⟩

theorem div16_keeps {src : RM16} : KeepsTo (div16 src len)
    ⟨bothHalves .ax ++ bothHalves .dx, [], (rm16Access · src), fun _ => [], divisionFaults, id⟩ :=
  division_keeps (fun s => div16_eq s len src) (fun _ _ => divideUnsigned_raises) (fun s _ => putQuotient16_kept s _ _)
    (fun _ _ => rfl) fun _ _ _ _ => ⟨rfl, rfl⟩

theorem idiv8_keeps {src : RM8} :
    KeepsTo (idiv8 src len) ⟨bothHalves .ax, [], (rm8Access · src), fun _ => [], divisionFaults, id⟩ :=
  division_keeps (fun s => idiv8_eq s len src) (fun _ _ => divideSigned_raises) (fun s _ => putQuotient8_kept s _ _)
    (fun _ _ => rfl) fun _ _ _ _ => ⟨rfl, rfl⟩

theorem idiv16_keeps {src : RM16} : KeepsTo (idiv16 src len)
    ⟨bothHalves .ax ++ bothHalves .dx, [], (rm16Access · src), fun _ => [], divisionFaults, id⟩ :=
  division_keeps (fun s => idiv16_eq s len src) (fun _ _ => divideSigned_raises) (fun s _ => putQuotient16_kept s _ _)
    (fun _ _ => rfl) fun _ _ _ _ => ⟨rfl, rfl⟩

/-- An instruction that moves pc only, to an address that no control flag decides. -/
theorem setPc_keeps {m : State → Result State} (target : State → Word)
    (checks : ∀ s, m s = commit s (guarded s (A s) (.ok (s.setPc (target s)))))
    (commutes : ∀ s tf if_ df, target (s.withControlFlags tf if_ df) = target s) :
    KeepsTo m ⟨[], [], A, fun _ => [], [], id⟩ :=
  .ofState _ checks (fun _ => ⟨.refl _ _, fun _ _ => rfl, .nothing _, rfl, rfl, rfl⟩)
    fun s tf if_ df => congrArg (s.withControlFlags tf if_ df).setPc (commutes s tf if_ df)

theorem branchIf_eq (c : Bool) (d : Byte) (s : State) :
    branchIf c d s = .next (s.setPc (if c then s.relTarget 2 (sext16 d) else s.next 2)) := by
  cases c <;> rfl

theorem branch_keeps (test : Flags → Bool) (htest : ∀ f tf if_ df, test (f.withControl tf if_ df) = test f) (d : Byte) :
    KeepsTo (fun s => branchIf (test s.flags) d s) ⟨[], [], fun _ => [], fun _ => [], [], id⟩ :=
  setPc_keeps (fun s => if test s.flags then s.relTarget 2 (sext16 d) else s.next 2) (fun s => branchIf_eq _ d s)
    fun s tf if_ df => congrArg (fun c : Bool => if c then s.relTarget 2 (sext16 d) else s.next 2) (htest s.flags tf if_ df)

theorem callTo_keeps {read : State → Except Fault Word} {B : State → List Access} (target : State → Word)
    (hread : ∀ s, read s = guarded s (B s) (.ok (target s)))
    (commutes : ∀ s tf if_ df, target (s.withControlFlags tf if_ df) = target s) :
    KeepsTo (fun s => callTo (read s) len s) ⟨bothHalves .sp, [], fun s => B s ++ [(s.loweredSp, 2)],
      fun s => wordStore s.loweredSp (s.next len), [], id⟩ :=
  .ofState (fun s => (pushed s (s.next len)).setPc (target s)) (fun s => by rw [hread]; exact callTo_eq s len)
    (fun s => ⟨.set s.regs .sp _, fun _ _ => rfl, .word _ _ _, rfl, rfl, rfl⟩)
    fun s tf if_ df => by
      rw [commutes]
      rfl

theorem returnReleasing_keeps (k : Word) : KeepsTo (returnReleasing k)
    ⟨bothHalves .sp, [], fun s => [(s.regs.sp, 2)], fun _ => [], [], id⟩ :=
  .ofState _ (fun s => returnReleasing_eq s k)
    (fun s => ⟨.set s.regs .sp _, fun _ _ => rfl, .nothing _, rfl, rfl, rfl⟩) fun _ _ _ _ => rfl

theorem loop_keeps (d : Byte) : KeepsTo (execLoop d) ⟨bothHalves .cx, [], fun _ => [], fun _ => [], [], id⟩ :=
  .ofState _ (fun _ => branchIf_eq _ d _)
    (fun s => ⟨.set s.regs .cx _, fun _ _ => rfl, .nothing _, rfl, rfl, rfl⟩) fun _ _ _ _ => rfl

theorem hlt_keeps :
    KeepsTo execHlt ⟨[], [], fun _ => [], fun _ => [], [], fun _ => .halted .hltExecuted⟩ :=
  .ofState (fun s => { s.advance 1 with status := .halted .hltExecuted }) (fun _ => rfl)
    (fun _ => ⟨.refl _ _, fun _ _ => rfl, .nothing _, rfl, rfl, rfl⟩) fun _ _ _ _ => rfl

theorem reject_keeps (b0 : Byte) : KeepsTo (reject b0)
    ⟨[], [], fun _ => [], fun _ => [], [.unsupportedInstruction (.opcode b0)], id⟩ :=
  ⟨fun _ => .error (.unsupportedInstruction (.opcode b0)), {
    checks := fun _ => rfl
    completes := fun _ _ h => nomatch h
    raises := fun _ _ h => List.mem_singleton.mpr (Except.error.inj h).symm
    commutes := fun _ _ _ _ => rfl }⟩

end Shapes

end Sys2Proof.Machine
end

section
/-! Family `other`, execution: every instruction keeps to its tables. The frames, the faults and the stores of an instruction
are read off this. -/

namespace Sys2Proof.Machine

/-- What an instruction can raise beside MemoryFault: the two divisions their faults (R253, R254), the encodings rejected by
name UnsupportedInstruction (R232 to R235). -/
def instrFaults : Instr → List Fault
  | .divRm8 _ | .divRm16 _ | .idivRm8 _ | .idivRm16 _ => divisionFaults
  | .inAlImm8 => [.unsupportedInstruction (.opcode 0xE4)]
  | .inAxImm8 => [.unsupportedInstruction (.opcode 0xE5)]
  | .inAlDx => [.unsupportedInstruction (.opcode 0xEC)]
  | .inAxDx => [.unsupportedInstruction (.opcode 0xED)]
  | .outImm8Al => [.unsupportedInstruction (.opcode 0xE6)]
  | .outImm8Ax => [.unsupportedInstruction (.opcode 0xE7)]
  | .outDxAl => [.unsupportedInstruction (.opcode 0xEE)]
  | .outDxAx => [.unsupportedInstruction (.opcode 0xEF)]
  | .lock => [.unsupportedInstruction (.opcode 0xF0)]
  | .wait => [.unsupportedInstruction (.opcode 0x9B)]
  | _ => []

/-- The Status an instruction ends with when it completes: HLT halts (R230), every other leaves it. -/
def instrStatus : Instr → Status → Status
  | .hlt => fun _ => .halted .hltExecuted
  | _ => id

/-- The rows of an instruction in all the tables. -/
def instrTables (i : Instr) : Tables :=
  ⟨instrHalves i, instrFlags i, (instrAccesses · i), (instrStores · i), instrFaults i, instrStatus i⟩

/-- PUSH of a register stores it, but PUSH SP the lowered value (D23). -/
theorem pushValue_reg (s : State) (r : Reg16) :
    pushValue s (.reg r) = if r = .sp then s.loweredSp else s.regs.get r := by
  unfold pushValue
  by_cases h : r = .sp
  · rw [if_pos h, if_pos (congrArg RM16.reg h)]
  · rw [if_neg h, if_neg fun h' => h (RM16.reg.inj h')]
    rfl

/-- Every instruction keeps to its tables. -/
theorem exec_keepsTo (i : Instr) : KeepsTo (exec i) (instrTables i) := by
  have noSource : ∀ l : State → List Access, l = fun s => l s ++ [] := fun l => funext fun s => (List.append_nil _).symm
  cases i
  -- two operands, the memory operand first
  case addRm8R8 | addRm8Imm8 => exact binary8_keeps afterAdd_writes (noSource _)
  case subRm8R8 | subRm8Imm8 => exact binary8_keeps afterSub_writes (noSource _)
  case orRm8R8 | orRm8Imm8 | andRm8R8 | andRm8Imm8 | xorRm8R8 | xorRm8Imm8 =>
    exact binary8_keeps (fun _ _ => afterLogic_writes _) (noSource _)
  case addRm16R16 | addRm16Imm16 | addRm16Simm8 => exact binary16_keeps afterAdd_writes (noSource _)
  case subRm16R16 | subRm16Imm16 | subRm16Simm8 => exact binary16_keeps afterSub_writes (noSource _)
  case orRm16R16 | orRm16Imm16 | orRm16Simm8 | andRm16R16 | andRm16Imm16 | andRm16Simm8 | xorRm16R16 | xorRm16Imm16
      | xorRm16Simm8 => exact binary16_keeps (fun _ _ => afterLogic_writes _) (noSource _)
  case cmpRm8R8 | cmpRm8Imm8 => exact compare8_keeps afterSub_writes (noSource _)
  case cmpRm16R16 | cmpRm16Imm16 | cmpRm16Simm8 => exact compare16_keeps afterSub_writes (noSource _)
  -- a register first
  case addR8Rm8 => exact binary8_keeps afterAdd_writes rfl
  case subR8Rm8 => exact binary8_keeps afterSub_writes rfl
  case orR8Rm8 | andR8Rm8 | xorR8Rm8 => exact binary8_keeps (fun _ _ => afterLogic_writes _) rfl
  case addR16Rm16 => exact binary16_keeps afterAdd_writes rfl
  case subR16Rm16 => exact binary16_keeps afterSub_writes rfl
  case orR16Rm16 | andR16Rm16 | xorR16Rm16 => exact binary16_keeps (fun _ _ => afterLogic_writes _) rfl
  case cmpR8Rm8 => exact compare8_keeps afterSub_writes rfl
  case cmpR16Rm16 => exact compare16_keeps afterSub_writes rfl
  -- the accumulator and an immediate
  case addAlImm8 v => exact binary8_keeps (dst := .reg .al) (src := .imm v) afterAdd_writes rfl
  case subAlImm8 v => exact binary8_keeps (dst := .reg .al) (src := .imm v) afterSub_writes rfl
  case orAlImm8 v | andAlImm8 v | xorAlImm8 v =>
    exact binary8_keeps (dst := .reg .al) (src := .imm v) (fun _ _ => afterLogic_writes _) rfl
  case addAxImm16 v => exact binary16_keeps (dst := .reg .ax) (src := .imm v) afterAdd_writes rfl
  case subAxImm16 v => exact binary16_keeps (dst := .reg .ax) (src := .imm v) afterSub_writes rfl
  case orAxImm16 v | andAxImm16 v | xorAxImm16 v =>
    exact binary16_keeps (dst := .reg .ax) (src := .imm v) (fun _ _ => afterLogic_writes _) rfl
  case cmpAlImm8 v => exact compare8_keeps (dst := .reg .al) (src := .imm v) afterSub_writes rfl
  case cmpAxImm16 v => exact compare16_keeps (dst := .reg .ax) (src := .imm v) afterSub_writes rfl
  -- one operand
  case incRm8 => exact unary8_keeps fun a => afterAdd_writes a 1
  case decRm8 => exact unary8_keeps fun a => afterSub_writes a 1
  case notRm8 => exact unary8_keeps fun _ => afterLogic_writes _
  case incRm16 => exact unary16_keeps fun a => afterAdd_writes a 1
  case decRm16 => exact unary16_keeps fun a => afterSub_writes a 1
  case incR16 r => exact unary16_keeps (op := (· + 1)) (dst := .reg r) fun a => afterAdd_writes a 1
  case decR16 r => exact unary16_keeps (op := (· - 1)) (dst := .reg r) fun a => afterSub_writes a 1
  case notRm16 => exact unary16_keeps fun _ => afterLogic_writes _
  case mulRm8 => exact mul8_keeps
  case mulRm16 => exact mul16_keeps
  case divRm8 => exact div8_keeps
  case divRm16 => exact div16_keeps
  case idivRm8 => exact idiv8_keeps
  case idivRm16 => exact idiv16_keeps
  -- moves
  case movRm8R8 | movRm8Imm8 | movMoffsAl => exact move8_keeps rfl
  case movRm16R16 | movRm16Imm16 | movMoffsAx => exact move16_keeps rfl
  case movR8Imm8 r v => exact move8_keeps (dst := .reg r) (src := .imm v) rfl
  case movR16Imm16 r v => exact move16_keeps (dst := .reg r) (src := .imm v) rfl
  case movR8Rm8 | movAlMoffs => exact move8_keeps (noSource _)
  case movR16Rm16 | movAxMoffs => exact move16_keeps (noSource _)
  case pushR16 r =>
    exact pushShape_keeps rfl (funext fun s => congrArg (wordStore s.loweredSp) (pushValue_reg s r).symm)
  case pushRm16 => exact pushShape_keeps rfl rfl
  case popR16 | popRm16 => exact popShape_keeps
  -- control flow
  case jmpRel8 d => exact setPc_keeps (fun s => s.relTarget 2 (sext16 d)) (fun _ => rfl) fun _ _ _ _ => rfl
  case jmpRel16 d => exact setPc_keeps (fun s => s.relTarget 3 d) (fun _ => rfl) fun _ _ _ _ => rfl
  case jmpRm16 rm =>
    exact setPc_keeps (value16 · rm) (fun s => by rw [exec, execJmpRm16, readRM16_guarded, jumpTo_eq]; rfl)
      fun _ _ _ _ => rfl
  case jo => exact branch_keeps (·.overflow) (fun _ _ _ _ => rfl) _
  case jno => exact branch_keeps (!·.overflow) (fun _ _ _ _ => rfl) _
  case jb => exact branch_keeps (·.carry) (fun _ _ _ _ => rfl) _
  case jnb => exact branch_keeps (!·.carry) (fun _ _ _ _ => rfl) _
  case je => exact branch_keeps (·.zero) (fun _ _ _ _ => rfl) _
  case jne => exact branch_keeps (!·.zero) (fun _ _ _ _ => rfl) _
  case jbe => exact branch_keeps (fun f => f.carry || f.zero) (fun _ _ _ _ => rfl) _
  case jnbe => exact branch_keeps (fun f => !f.carry && !f.zero) (fun _ _ _ _ => rfl) _
  case js => exact branch_keeps (·.sign) (fun _ _ _ _ => rfl) _
  case jns => exact branch_keeps (!·.sign) (fun _ _ _ _ => rfl) _
  case jp => exact branch_keeps (·.parity) (fun _ _ _ _ => rfl) _
  case jnp => exact branch_keeps (!·.parity) (fun _ _ _ _ => rfl) _
  case jl => exact branch_keeps (fun f => f.sign != f.overflow) (fun _ _ _ _ => rfl) _
  case jnl => exact branch_keeps (fun f => f.sign == f.overflow) (fun _ _ _ _ => rfl) _
  case jle => exact branch_keeps (fun f => f.zero || f.sign != f.overflow) (fun _ _ _ _ => rfl) _
  case jnle => exact branch_keeps (fun f => !f.zero && f.sign == f.overflow) (fun _ _ _ _ => rfl) _
  case callRel16 d =>
    exact callTo_keeps (B := fun _ => []) (fun s => s.relTarget 3 d) (fun _ => rfl) fun _ _ _ _ => rfl
  case callRm16 rm => exact callTo_keeps (value16 · rm) (readRM16_guarded · rm) fun _ _ _ _ => rfl
  case ret => exact returnReleasing_keeps 0
  case retImm16 v => exact returnReleasing_keeps v
  case loop d => exact loop_keeps d
  -- HLT, NOP and the encodings rejected by name
  case hlt => exact hlt_keeps
  case nop => exact setPc_keeps (fun s => s.next 1) (fun _ => rfl) fun _ _ _ _ => rfl
  case inAlImm8 | inAxImm8 | inAlDx | inAxDx | outImm8Al | outImm8Ax | outDxAl | outDxAx | lock | wait =>
    exact reject_keeps _

/-! ## What running an instruction can answer -/

/-- The states that running `i` on `s` can answer: MemoryFault at the first access out of range; with every access in range
a fault of the instruction's own, or a state that keeps to the tables. -/
inductive Answers (i : Instr) (s : State) : State → Prop
  | memoryFault {a : Word} (h : firstOutside s i = some a) : Answers i s { s with status := .faulted (.memoryFault a) }
  | ownFault {f : Fault} (h : firstOutside s i = none) (hf : f ∈ instrFaults i) :
      Answers i s { s with status := .faulted f }
  | completes {t : State} (h : firstOutside s i = none) (ht : Completes (instrTables i) s t) : Answers i s t

/-- Running an instruction always answers a next state, one of those. -/
theorem exec_answers (i : Instr) (s : State) : ∃ t, exec i s = .next t ∧ Answers i s t := by
  obtain ⟨effect, heffect⟩ := exec_keepsTo i
  have hchecks : exec i s = commit s (guarded s (instrAccesses s i) (effect s)) := heffect.checks s
  rw [hchecks]
  cases hfirst : firstOutside s i with
  | some a => exact ⟨_, by rw [guarded_outside hfirst, commit_error], .memoryFault hfirst⟩
  | none =>
    rw [guarded_inside hfirst]
    cases he : effect s with
    | error f => exact ⟨_, rfl, .ownFault hfirst (heffect.raises s f he)⟩
    | ok t => exact ⟨t, rfl, .completes hfirst (heffect.completes s t he)⟩

theorem answers_of_exec {i : Instr} {s t : State} (h : exec i s = .next t) : Answers i s t := by
  obtain ⟨u, hu, hanswers⟩ := exec_answers i s
  rw [h] at hu
  cases hu
  exact hanswers

/-! ## Frames -/

/-- Settles O44: a fault changes no register, and an instruction that completes keeps to its row of register halves. -/
theorem registerFrame : Obligations.RegisterFrame := by
  intro i s t ht h hh
  cases answers_of_exec ht with
  | memoryFault | ownFault => rfl
  | completes _ ht => exact ht.regs h hh

/-- Settles O45: likewise for the row of flags. -/
theorem flagFrame : Obligations.FlagFrame := by
  intro i s t ht n hn
  cases answers_of_exec ht with
  | memoryFault | ownFault => rfl
  | completes _ ht => exact ht.flags n hn

/-- Settles O46: likewise for the bytes stored, whose addresses are the row of cells. -/
theorem memoryFrame : Obligations.MemoryFrame := by
  intro i s t ht a ha
  cases answers_of_exec ht with
  | memoryFault | ownFault => rfl
  | completes _ ht => exact ht.memory.frame a (instrStores_fst s i ▸ ha)

/-! ## Faults -/

/-- What the table of own faults says of each reason. -/
theorem mem_instrFaults {i : Instr} {f : Fault} (h : f ∈ instrFaults i) :
    (f ∈ divisionFaults ∧ ∃ rm rm', i = .divRm8 rm ∨ i = .divRm16 rm' ∨ i = .idivRm8 rm ∨ i = .idivRm16 rm') ∨
    ∃ b, f = .unsupportedInstruction (.opcode b) ∧ encode i = [b] ∧ i ∈ ([.inAlImm8, .inAxImm8, .inAlDx, .inAxDx,
      .outImm8Al, .outImm8Ax, .outDxAl, .outDxAx, .lock, .wait] : List Instr) := by
  unfold instrFaults at h
  split at h
  case h_1 rm => exact .inl ⟨h, rm, .reg .ax, .inl rfl⟩
  case h_2 rm => exact .inl ⟨h, .reg .al, rm, .inr (.inl rfl)⟩
  case h_3 rm => exact .inl ⟨h, rm, .reg .ax, .inr (.inr (.inl rfl))⟩
  case h_4 rm => exact .inl ⟨h, .reg .al, rm, .inr (.inr (.inr rfl))⟩
  case h_15 => cases h
  all_goals exact .inr ⟨_, List.mem_singleton.mp h, rfl, by decide⟩

theorem instrStatus_of_ne_hlt {i : Instr} (h : i ≠ .hlt) : instrStatus i = id := by
  unfold instrStatus
  split
  · exact absurd rfl h
  · rfl

/-- With every access in range no MemoryFault is raised. -/
theorem memoryFault_iff_of_ne {i : Instr} {s : State} (h : firstOutside s i = none) {st : Status}
    (hst : ∀ a, st ≠ .faulted (.memoryFault a)) (a : Word) :
    st = .faulted (.memoryFault a) ↔ firstOutside s i = some a :=
  iff_of_false (hst a) (by rw [h]; exact nofun)

/-- Settles O55: the reasons are those of `Answers`, and each fault of an instruction's own is in the table. -/
theorem faultReasonsAndTheirRaisers : Obligations.FaultReasonsAndTheirRaisers := by
  intro i s hrun
  obtain ⟨t, ht, hanswers⟩ := exec_answers i s
  refine ⟨t, ht, ?_⟩
  cases hanswers with
  | @memoryFault a hfirst =>
    refine ⟨fun b => ?_, firstOutsideOf_some hfirst⟩
    rw [hfirst]
    simp only [Status.faulted.injEq, Fault.memoryFault.injEq, Option.some.injEq]
  | @ownFault f hfirst hf =>
    obtain ⟨hdivision, hi⟩ | ⟨b, rfl, hi⟩ := mem_instrFaults hf
    · simp only [divisionFaults, List.mem_cons, List.not_mem_nil, or_false] at hdivision
      obtain rfl | rfl := hdivision
      · exact ⟨memoryFault_iff_of_ne hfirst nofun, hi⟩
      · exact ⟨memoryFault_iff_of_ne hfirst nofun, hi⟩
    · exact ⟨memoryFault_iff_of_ne hfirst nofun, b, rfl, hi⟩
  | completes hfirst ht =>
    have hstatus : t.status = instrStatus i .running := hrun ▸ ht.status
    rw [hstatus]
    by_cases hi : i = .hlt
    · subst hi
      exact ⟨memoryFault_iff_of_ne hfirst nofun, rfl, rfl⟩
    · rw [instrStatus_of_ne_hlt hi]
      exact ⟨memoryFault_iff_of_ne hfirst nofun, hi⟩

/-! ## Stores and the fetch -/

theorem State.windowBytes_head {s : State} {a : Nat} (h : a < s.imageEnd) (n : Nat) :
    (s.windowBytes a (n + 1)).head? = some (s.mem.read a) := by
  rw [State.windowBytes, if_pos h, List.head?_cons]

/-- Settles O56: the byte stored is what memory holds there, and the first byte the window gives at that address. -/
theorem storeIsSeenByNextFetch : Obligations.StoreIsSeenByNextFetch := by
  intro i s t a v hm ht hrun hstore hbase hend
  cases answers_of_exec ht with
  | memoryFault | ownFault => cases hrun
  | completes _ ht =>
    have hread : t.mem.read a.toNat = v := ht.memory.reads hm _ _ hstore
    have himage : (t.setPc a).imageEnd = s.imageEnd := by rw [State.imageEnd, State.setPc_params, ht.params, State.imageEnd]
    refine ⟨?_, ?_⟩
    · rw [State.inWindow, himage, State.setPc_params, ht.params]
      exact decide_eq_true ⟨hbase, hend⟩
    · rw [State.fetch, Config.maxInstrLen, State.windowBytes_head (himage ▸ hend), State.setPc_mem, State.setPc_pc, hread]

end Sys2Proof.Machine
end

section
/-! Family `other`, the step: one lemma for each way a pass of the run loop can go (R298), one that says these are all, and
the statements about the step from it. -/

namespace Sys2Proof.Machine

/-! ## The ways of a pass -/

section Pass

variable {s : State}

theorem step_terminal (h : s.status ≠ .running) : step s = .next s := by
  unfold step
  split
  case h_3 hrun => exact absurd hrun h
  all_goals rfl

variable (hrun : s.status = .running)
include hrun

theorem step_outside (hwindow : s.inWindow = false) : step s = .next s.endOfProgram := by
  simp only [step, hrun, hwindow, Bool.false_eq_true, if_false]

theorem step_budget (hwindow : s.inWindow = true) (hsteps : s.steps = s.params.maxSteps) :
    step s = .next { s with status := .faulted .stepLimitExceeded } := by
  simp only [step, hrun, hwindow, hsteps, if_true, raise]

theorem step_undecodable (hwindow : s.inWindow = true) (hsteps : s.steps ≠ s.params.maxSteps) {u : Unsupported}
    (hdecode : s.fetchDecode = .error u) :
    step s = .next { s.countStep with status := .faulted (.unsupportedInstruction u) } := by
  simp only [step, hrun, hwindow, hsteps, hdecode, if_true, if_false, raise]

theorem step_runs (hwindow : s.inWindow = true) (hsteps : s.steps ≠ s.params.maxSteps) {i : Instr}
    (hdecode : s.fetchDecode = .ok i) : step s = exec i s.countStep := by
  simp only [step, hrun, hwindow, hsteps, hdecode, if_true, if_false]

end Pass

/-- The states that a pass from `s` can answer, in the order of the loop's checks. -/
inductive Passes (s : State) : State → Prop
  | terminal (hterminal : s.status ≠ .running) : Passes s s
  | outside (hrun : s.status = .running) (hwindow : s.inWindow = false) : Passes s s.endOfProgram
  | budget (hrun : s.status = .running) (hwindow : s.inWindow = true) (hsteps : s.steps = s.params.maxSteps) :
      Passes s { s with status := .faulted .stepLimitExceeded }
  | undecodable {u : Unsupported} (hrun : s.status = .running) (hwindow : s.inWindow = true)
      (hsteps : s.steps ≠ s.params.maxSteps) (hdecode : s.fetchDecode = .error u) :
      Passes s { s.countStep with status := .faulted (.unsupportedInstruction u) }
  | runs {i : Instr} {t : State} (hrun : s.status = .running) (hwindow : s.inWindow = true)
      (hsteps : s.steps ≠ s.params.maxSteps) (hdecode : s.fetchDecode = .ok i) (hexec : exec i s.countStep = .next t) :
      Passes s t

/-- A step always answers a next state, one of those. -/
theorem step_passes (s : State) : ∃ t, step s = .next t ∧ Passes s t := by
  by_cases hrun : s.status = .running
  case neg => exact ⟨s, step_terminal hrun, .terminal hrun⟩
  cases hwindow : s.inWindow with
  | false => exact ⟨_, step_outside hrun hwindow, .outside hrun hwindow⟩
  | true =>
    by_cases hsteps : s.steps = s.params.maxSteps
    · exact ⟨_, step_budget hrun hwindow hsteps, .budget hrun hwindow hsteps⟩
    · cases hdecode : s.fetchDecode with
      | error u => exact ⟨_, step_undecodable hrun hwindow hsteps hdecode, .undecodable hrun hwindow hsteps hdecode⟩
      | ok i =>
        obtain ⟨t, ht, -⟩ := exec_answers i s.countStep
        exact ⟨t, (step_runs hrun hwindow hsteps hdecode).trans ht, .runs hrun hwindow hsteps hdecode ht⟩

theorem passes_of_step {s t : State} (h : step s = .next t) : Passes s t := by
  obtain ⟨u, hu, hpasses⟩ := step_passes s
  rw [h] at hu
  cases hu
  exact hpasses

/-! ## TF, IF and DF -/

/-- Running an instruction does not depend on the control flags. -/
theorem exec_withControlFlags {i : Instr} {s t : State} (h : exec i s = .next t) (tf if_ df : Bool) :
    exec i (s.withControlFlags tf if_ df) = .next (t.withControlFlags tf if_ df) := by
  obtain ⟨effect, heffect⟩ := exec_keepsTo i
  have hchecks : ∀ s, exec i s = commit s (guarded s (instrAccesses s i) (effect s)) := heffect.checks
  have hfirst : firstOutside (s.withControlFlags tf if_ df) i = firstOutside s i := rfl
  rw [hchecks] at h ⊢
  cases hs : firstOutside s i with
  | some a =>
    rw [guarded_outside hs, commit_error] at h
    rw [guarded_outside (hfirst.trans hs), commit_error]
    cases h
    rfl
  | none =>
    rw [guarded_inside hs] at h
    rw [guarded_inside (hfirst.trans hs), heffect.commutes]
    cases he : effect s with
    | ok u => rw [he] at h; cases h; rfl
    | error f => rw [he] at h; cases h; rfl

/-- Nor does a step. -/
theorem step_withControlFlags {s t : State} (h : step s = .next t) (tf if_ df : Bool) :
    step (s.withControlFlags tf if_ df) = .next (t.withControlFlags tf if_ df) := by
  cases passes_of_step h with
  | terminal hterminal => exact step_terminal hterminal
  | outside hrun hwindow => exact step_outside (s := s.withControlFlags tf if_ df) hrun hwindow
  | budget hrun hwindow hsteps => exact step_budget (s := s.withControlFlags tf if_ df) hrun hwindow hsteps
  | undecodable hrun hwindow hsteps hdecode =>
    exact step_undecodable (s := s.withControlFlags tf if_ df) hrun hwindow hsteps hdecode
  | runs hrun hwindow hsteps hdecode hexec =>
    rw [step_runs (s := s.withControlFlags tf if_ df) hrun hwindow hsteps hdecode]
    exact exec_withControlFlags hexec tf if_ df

/-- Settles O47: a step does not depend on the three flags; on the session's own values this says that it keeps them. -/
theorem controlFlagsHaveNoEffect : Obligations.ControlFlagsHaveNoEffect := by
  intro s t tf if_ df h
  have hown : step s = .next (t.withControlFlags s.flags.trap s.flags.interrupt s.flags.direction) :=
    step_withControlFlags h s.flags.trap s.flags.interrupt s.flags.direction
  have ht : t = t.withControlFlags s.flags.trap s.flags.interrupt s.flags.direction := by
    rw [h] at hown
    exact Host.Outcome.next.inj hown
  exact ⟨congrArg (·.flags.trap) ht, congrArg (·.flags.interrupt) ht, congrArg (·.flags.direction) ht,
    step_withControlFlags h tf if_ df⟩

/-! ## Status, STEPS and the parameters -/

/-- How a running session's Status can stand after an instruction. -/
theorem Answers.status_cases {i : Instr} {s t : State} (h : Answers i s t) (hrun : s.status = .running) :
    (t.status = .running ∧ i ≠ .hlt) ∨ (t.status = .halted .hltExecuted ∧ i = .hlt) ∨
    ∃ f, f ≠ .stepLimitExceeded ∧ t = { s with status := .faulted f } := by
  cases h with
  | @memoryFault a => exact .inr (.inr ⟨.memoryFault a, nofun, rfl⟩)
  | ownFault _ hf =>
    refine .inr (.inr ⟨_, ?_, rfl⟩)
    rintro rfl
    obtain ⟨hf, -⟩ | ⟨b, hf, -⟩ := mem_instrFaults hf
    · exact absurd hf (by decide)
    · cases hf
  | completes _ ht =>
    have hstatus : t.status = instrStatus i .running := hrun ▸ ht.status
    by_cases hi : i = .hlt
    · subst hi
      exact .inr (.inl ⟨hstatus, rfl⟩)
    · rw [instrStatus_of_ne_hlt hi] at hstatus
      exact .inl ⟨hstatus, hi⟩

theorem Answers.steps {i : Instr} {s t : State} (h : Answers i s t) : t.steps = s.steps := by
  cases h with
  | memoryFault | ownFault => rfl
  | completes _ ht => exact ht.steps

theorem Answers.params {i : Instr} {s t : State} (h : Answers i s t) : t.params = s.params := by
  cases h with
  | memoryFault | ownFault => rfl
  | completes _ ht => exact ht.params

/-- Settles O54: the budget's fault writes Status only, and every other stands over the counted session. -/
theorem faultsArePrecise : Obligations.FaultsArePrecise := by
  intro s t f hrun ht hf
  cases passes_of_step ht with
  | terminal hterminal => exact absurd hrun hterminal
  | outside => cases hf
  | budget => cases hf; rfl
  | undecodable => cases hf; rfl
  | runs _ _ _ _ hexec =>
    obtain ⟨hstatus, -⟩ | ⟨hstatus, -⟩ | ⟨g, hg, rfl⟩ := (answers_of_exec hexec).status_cases hrun
    · rw [hf] at hstatus; cases hstatus
    · rw [hf] at hstatus; cases hstatus
    · cases hf
      rw [if_neg hg]
      rfl

/-- Settles O53: each way of a pass, with the Status it ends in. -/
theorem statusTransitions : Obligations.StatusTransitions := by
  intro s
  obtain ⟨t, ht, hpasses⟩ := step_passes s
  refine ⟨t, ht, ?_⟩
  cases hpasses with
  | terminal hterminal => simp [hterminal]
  | outside hrun hwindow => simp [hrun, hwindow]
  | budget hrun hwindow hsteps => simp [hrun, hwindow, hsteps]
  | undecodable hrun hwindow hsteps _ => simp [hrun, hwindow, hsteps]
  | runs hrun hwindow hsteps hdecode hexec =>
    have hanswers := answers_of_exec hexec
    refine ⟨hanswers.params, .inr hanswers.steps, fun h => absurd hrun h, ?_⟩
    obtain ⟨hstatus, -⟩ | ⟨hstatus, rfl⟩ | ⟨f, hf, rfl⟩ := hanswers.status_cases hrun
    · simp [hstatus, hwindow, hsteps]
    · simp [hstatus, hwindow, hsteps, hdecode]
    · simp [hf, hwindow, hsteps]

/-! ## The invariant -/

/-- With every access in range an instruction stores inside memory. -/
theorem stores_inside {i : Instr} {s : State} (h : firstOutside s i = none) :
    ∀ a ∈ (instrStores s i).map Prod.fst, a < s.memSize := by
  intro a ha
  rw [instrStores_fst] at ha
  obtain ⟨p, hp, hcell⟩ := instrCells_accessed s i a ha
  obtain ⟨k, hk, rfl⟩ := List.mem_map.mp hcell
  have hk : k < p.2 := List.mem_range.mp hk
  have hinside : ¬ s.memSize < p.1.toNat + p.2 := by
    unfold firstOutside firstOutsideOf at h
    split at h
    · cases h
    · next hnone => simpa [Access.outside] using List.find?_eq_none.mp hnone p hp
  omega

theorem Inv.withStatus {s : State} (h : Inv s) (st : Status) : Inv { s with status := st } :=
  ⟨h.canonical, h.inside, h.image, h.budget⟩

theorem Inv.countStep {s : State} (h : Inv s) (hsteps : s.steps ≠ s.params.maxSteps) : Inv s.countStep :=
  ⟨h.canonical, h.inside, h.image, Nat.lt_of_le_of_ne h.budget hsteps⟩

theorem Answers.inv {i : Instr} {s t : State} (h : Answers i s t) (hs : Inv s) : Inv t := by
  cases h with
  | memoryFault | ownFault => exact hs.withStatus _
  | completes hfirst ht =>
    have hsize : t.memSize = s.memSize := by rw [State.memSize, ht.params, State.memSize]
    exact {
      canonical := ht.memory.wf hs.canonical
      inside := hsize ▸ ht.memory.inside s.memSize hs.inside (stores_inside hfirst)
      image := by rw [hsize, State.imageEnd, ht.params]; exact hs.image
      budget := by rw [ht.steps, ht.params]; exact hs.budget }

/-- Settles O57: a pass counts a step only below the budget, and an instruction stores only inside memory. -/
theorem stepKeepsInvariant : Obligations.StepKeepsInvariant := by
  intro s t hs ht
  cases passes_of_step ht with
  | terminal => exact hs
  | outside => exact hs.withStatus _
  | budget => exact hs.withStatus _
  | undecodable _ _ hsteps => exact (hs.countStep hsteps).withStatus _
  | runs _ _ hsteps _ hexec => exact (answers_of_exec hexec).inv (hs.countStep hsteps)

/-! ## The fetch and the checks -/

theorem State.fetchDecode_ok {s : State} {i : Instr} {rest : List Byte} (h : decode s.fetch = .ok (i, rest)) :
    s.fetchDecode = .ok i := by rw [State.fetchDecode, h]

theorem State.fetchDecode_error {s : State} {u : Unsupported} (h : decode s.fetch = .error u) :
    s.fetchDecode = .error u := by rw [State.fetchDecode, h]

/-- Settles O48. -/
theorem stepRunsDecodedInstruction : Obligations.StepRunsDecodedInstruction :=
  fun _ _ _ hrun hwindow hsteps h => step_runs hrun hwindow hsteps (State.fetchDecode_ok h)

/-- Settles O51. -/
theorem undecodableBytesFault : Obligations.UndecodableBytesFault :=
  fun _ _ hrun hwindow hsteps h => step_undecodable hrun hwindow hsteps (State.fetchDecode_error h)

/-- Bytes that lie in memory inside the window stand at the front of what the window gives. -/
theorem State.windowBytes_of_bytes (s : State) (bs : List Byte) (a n : Nat) (hlen : bs.length ≤ n)
    (hend : a + bs.length ≤ s.imageEnd) (hbytes : ∀ k, k < bs.length → bs[k]? = some (s.mem.read (a + k))) :
    ∃ rest, s.windowBytes a n = bs ++ rest := by
  induction bs generalizing a n with
  | nil => exact ⟨_, rfl⟩
  | cons b bs ih =>
    rw [List.length_cons] at hlen hend
    obtain ⟨n, rfl⟩ : ∃ m, n = m + 1 := ⟨n - 1, by omega⟩
    have hfirst : b = s.mem.read a := Option.some.inj (hbytes 0 (Nat.succ_pos _))
    obtain ⟨rest, hrest⟩ := ih (a + 1) n (by omega) (by omega) fun k hk => by
      have hnext := hbytes (k + 1) (Nat.succ_lt_succ hk)
      rwa [List.getElem?_cons_succ, show a + (k + 1) = a + 1 + k by omega] at hnext
    have hinside : a < s.imageEnd := by omega
    exact ⟨rest, by rw [State.windowBytes, if_pos hinside, hrest, ← hfirst, List.cons_append]⟩

/-- Settles O49: the bytes at pc are the front of the fetch, and O1 decodes them. -/
theorem stepRunsTheBytesAtPc : Obligations.StepRunsTheBytesAtPc := by
  intro s i hrun hsteps hwf hbase hend hbytes
  have hlen := encode_length hwf
  obtain ⟨-, hpos, hmax⟩ := (decode_sound (decodeOfEncode i [] hwf)).size
  obtain ⟨rest, hfetch⟩ := s.windowBytes_of_bytes (encode i) s.pc.toNat Config.maxInstrLen (hlen.trans_le hmax)
    (hlen ▸ hend) (hlen ▸ hbytes)
  have hdecode : decode s.fetch = .ok (i, rest) := by rw [State.fetch, hfetch, decodeOfEncode i rest hwf]
  have hwindow : s.inWindow = true := decide_eq_true ⟨hbase, by unfold State.imageEnd; omega⟩
  exact step_runs hrun hwindow hsteps (State.fetchDecode_ok hdecode)

/-- Settles O50: the first three ways of a pass. -/
theorem loopChecksInOrder : Obligations.LoopChecksInOrder := fun _ =>
  ⟨step_terminal, fun hrun hwindow => step_outside hrun (decide_eq_false hwindow),
    fun hrun hbase hend hsteps => step_budget hrun (decide_eq_true ⟨hbase, hend⟩) hsteps⟩

end Sys2Proof.Machine
end

section
/-! Family `other`, load and run (70_reset_and_hazards.md). -/

namespace Sys2Proof.Machine

/-! ## Run -/

theorem Status.terminal_iff (st : Status) : st.terminal = true ↔ st ≠ .running := by
  cases st with
  | running => exact iff_of_false nofun fun h => h rfl
  | halted | faulted => exact iff_of_true rfl nofun

/-- The loop stops on a terminal session, whatever the number of passes left. -/
theorem passes_of_terminal {s : State} (h : s.status.terminal = true) (n : Nat) : passes n s = .next s := by
  cases n with
  | zero => rfl
  | succ n =>
    unfold passes
    split
    case h_3 hrun => exact absurd hrun ((Status.terminal_iff _).mp h)
    all_goals rfl

theorem passes_of_running {s t : State} (hrun : s.status = .running) (ht : step s = .next t) (n : Nat) :
    passes (n + 1) s = passes n t := by
  rw [passes, hrun, ht]

/-- Settles O52: neither the step nor the loop looks past a terminal Status. -/
theorem terminalStatesAreNeverLeft : Obligations.TerminalStatesAreNeverLeft := fun s h =>
  ⟨step_terminal ((Status.terminal_iff _).mp h), fun n =>
    ⟨_, passes_of_terminal (s := { s with params := { s.params with maxSteps := n } }) h _, rfl, rfl, rfl⟩⟩

/-- A pass within the budget ends the run within it, or counts one more step of it. -/
theorem step_progress {s : State} (hrun : s.status = .running) (hbudget : s.steps ≤ s.params.maxSteps) :
    ∃ t, step s = .next t ∧ t.params = s.params ∧ t.steps ≤ s.params.maxSteps ∧
      (t.status.terminal = true ∨ t.steps = s.steps + 1) := by
  obtain ⟨t, ht, hpasses⟩ := step_passes s
  refine ⟨t, ht, ?_⟩
  cases hpasses with
  | terminal hterminal => exact absurd hrun hterminal
  | outside => exact ⟨rfl, hbudget, .inl rfl⟩
  | budget => exact ⟨rfl, hbudget, .inl rfl⟩
  | undecodable _ _ hsteps => exact ⟨rfl, Nat.lt_of_le_of_ne hbudget hsteps, .inl rfl⟩
  | runs _ _ hsteps _ hexec =>
    have hanswers := answers_of_exec hexec
    exact ⟨hanswers.params, hanswers.steps ▸ Nat.lt_of_le_of_ne hbudget hsteps, .inr hanswers.steps⟩

/-- Passes enough for the budget that is left, and one more, end the run. -/
theorem passes_end (n : Nat) {s : State} (hbudget : s.steps ≤ s.params.maxSteps) (hn : s.params.maxSteps < s.steps + n) :
    ∃ t, passes n s = .next t ∧ t.status.terminal = true ∧ t.steps ≤ s.params.maxSteps := by
  induction n generalizing s with
  | zero => omega
  | succ n ih =>
    by_cases hrun : s.status = .running
    case neg =>
      have hterminal := (Status.terminal_iff _).mpr hrun
      exact ⟨s, passes_of_terminal hterminal _, hterminal, hbudget⟩
    obtain ⟨t, ht, hparams, hsteps, hterminal | hcounted⟩ := step_progress hrun hbudget
    all_goals rw [passes_of_running hrun ht]
    · exact ⟨t, passes_of_terminal hterminal n, hterminal, hsteps⟩
    · rw [← hparams] at hsteps hn ⊢
      exact ih hsteps (by omega)

/-- Settles O60: `run` makes a pass for each step that is left, and one more. -/
theorem runEndsTerminal : Obligations.RunEndsTerminal := fun s n hn =>
  passes_end (n - s.steps + 1) (s := { s with params := { s.params with maxSteps := n } }) hn
    (show n < s.steps + (n - s.steps + 1) by omega)

/-! ## Load -/

/-- A run of byte writes at the addresses it covers. -/
theorem Memory.read_writeBytes {m : Memory} (hm : m.wf) (a : Nat) (bs : List Byte) (k : Nat) (hk : k < bs.length) :
    bs[k]? = some ((m.writeBytes a bs).read (a + k)) := by
  induction bs generalizing m a k with
  | nil => cases hk
  | cons b bs ih =>
    rw [Memory.writeBytes]
    cases k with
    | zero =>
      show some b = some (((m.write a b).writeBytes (a + 1) bs).read a)
      rw [Memory.read_writeBytes_of_lt _ _ (Nat.lt_add_one a), Memory.read_write_self hm]
    | succ k =>
      rw [List.getElem?_cons_succ, ih (Memory.write_wf hm a b) (a + 1) k (Nat.lt_of_succ_lt_succ hk),
        show a + 1 + k = a + (k + 1) by omega]

/-- Memory after load: the image over zeros (R290, D14). -/
theorem Memory.read_image (a x : Nat) (image : List Byte) :
    (Memory.writeBytes [] a image).read x = if x < a then 0 else (image[x - a]?).getD 0 := by
  by_cases hbefore : x < a
  · rw [if_pos hbefore, Memory.read_writeBytes_of_lt _ _ hbefore]
    rfl
  rw [if_neg hbefore]
  by_cases hinside : x - a < image.length
  · rw [Memory.read_writeBytes Memory.wf_nil a image (x - a) hinside, Option.getD_some,
      show a + (x - a) = x by omega]
  · rw [Memory.read_writeBytes_of_ge _ _ (by omega), List.getElem?_eq_none (by omega)]
    rfl

/-- The session after a load (R290, R42). -/
def loaded (memTop spInit : Word) (maxSteps : Nat) (image : List Byte) (base : Word) : State where
  regs := Regs.atLoad spInit
  pc := base
  flags := Flags.atLoad
  mem := Memory.writeBytes [] base.toNat image
  status := .running
  steps := 0
  params := { memTop, imageBase := base, imageLen := image.length, spInit, maxSteps }

section Load

variable {memTop spInit base : Word} {n : Nat} {image : List Byte}

theorem load_too_large (h : memTop.toNat + 1 < base.toNat + image.length) :
    load memTop spInit n image base = .error .imageTooLarge := if_pos h

theorem load_fits (h : base.toNat + image.length ≤ memTop.toNat + 1) :
    load memTop spInit n image base = .ok (loaded memTop spInit n image base) := if_neg (Nat.not_lt.mpr h)

theorem loaded_inv (h : base.toNat + image.length ≤ memTop.toNat + 1) : Inv (loaded memTop spInit n image base) where
  canonical := Memory.writeBytes_wf Memory.wf_nil _ _
  inside := Memory.writeBytes_inside image nofun h
  image := h
  budget := Nat.zero_le _

end Load

/-- Settles O59: `load` is `loaded` when the image fits, and a reload is a load with the session's parameters. -/
theorem loadGivesFreshSession : Obligations.LoadGivesFreshSession := by
  intro memTop spInit base n image
  refine ⟨load_too_large, fun h => ⟨_, load_fits h, loaded_inv h, rfl, rfl, rfl, rfl, rfl, rfl, rfl,
    fun a => Memory.read_image base.toNat a image, ?_⟩⟩
  rintro old rfl rfl rfl
  exact load_fits h

/-- Settles O58: reset is the load of an empty image, so the invariant is that of `loaded`, and no pc is in its window. -/
theorem resetMeetsInvariant : Obligations.ResetMeetsInvariant := by
  have hfits : (0 : Word).toNat + ([] : List Byte).length ≤ (0xFFFF : Word).toNat + 1 := by decide
  exact ⟨loaded_inv (spInit := 0) (n := 1000000) hfits, load_fits hfits, step_outside rfl rfl, rfl⟩

end Sys2Proof.Machine
end

section
/-! Family `other`, values: registers, effective addresses, the flag computer. -/

namespace Sys2Proof.Machine

/-! ## Registers and addresses -/

/-- Settles O7: `Regs.get_set`, and the eight numbers one by one. -/
theorem registerReadAfterWrite : Obligations.RegisterReadAfterWrite := ⟨Regs.get_set, by decide⟩

/-- Settles O12: memory ends at or below 65536, so the word at 65535 has its second byte outside. -/
theorem wordAtTopAlwaysFaults : Obligations.WordAtTopAlwaysFaults := fun s v => by
  have htop : s.memSize ≤ (0xFFFF : Word).toNat + 1 := Nat.succ_le_of_lt s.params.memTop.isLt
  exact ⟨State.memRead16_outside htop, State.memWrite16_outside v htop⟩

/-- The effective address of a base with an 8-bit displacement is that of the base alone plus the extended byte. -/
theorem effAddr_disp8 (g : Regs) (b : BaseIndex) (d : Byte) :
    effAddr g (.disp8 b d) = effAddr g (.noDisp b) + sext16 d := rfl

theorem effAddr_disp16 (g : Regs) (b : BaseIndex) (d : Word) :
    effAddr g (.disp16 b d) = effAddr g (.noDisp b) + d := rfl

/-- Adding a sign-extended byte adds its signed value modulo 2^16. -/
theorem toNat_add_sext16 (a : Word) (d : Byte) : ((a + sext16 d).toNat : Int) = (a.toNat + d.toInt) % 65536 := by
  have hext : sext16 d = BitVec.ofInt 16 d.toInt := rfl
  rw [BitVec.toNat_add, hext, BitVec.toNat_ofInt]
  omega

/-- Settles O13: each row is an addition of words; only the 8-bit displacement is signed. -/
theorem effectiveAddressTable : Obligations.EffectiveAddressTable := fun g => by
  refine ⟨?_, fun b d => ?_, fun b d => ?_, fun _ => rfl, by decide, fun _ _ _ => rfl⟩
  · simp only [List.map_cons, List.map_nil, effAddr, baseValue, BitVec.toNat_add]
  · rw [effAddr_disp8, toNat_add_sext16]
  · rw [effAddr_disp16, BitVec.toNat_add]

/-! ## The flag computer -/

section FlagComputer

variable {n : Nat} (f : Flags) (a b : BitVec n)

/-- OF after Add, as the signed sum being out of range. -/
theorem Flags.afterAdd_overflow : (f.afterAdd a b).overflow = a.saddOverflow b :=
  (BitVec.saddOverflow_eq a b).symm

/-- OF after Sub, as the signed difference being out of range. -/
theorem Flags.afterSub_overflow : (f.afterSub a b).overflow = a.ssubOverflow b := by
  rw [BitVec.ssubOverflow_eq]
  show (a.msb != b.msb && (a - b).msb != a.msb) = _
  cases a.msb <;> cases b.msb <;> cases (a - b).msb <;> rfl

/-- The wrapped difference is the integer difference modulo 2^n. -/
theorem ofInt_toNat_sub_toNat : BitVec.ofInt n ((a.toNat : Int) - (b.toNat : Int)) = a - b := by
  rw [Int.sub_eq_add_neg, BitVec.ofInt_add, BitVec.ofInt_neg, BitVec.ofInt_natCast, BitVec.ofInt_natCast,
    BitVec.ofNat_toNat, BitVec.ofNat_toNat, BitVec.setWidth_eq, BitVec.setWidth_eq, ← BitVec.sub_eq_add_neg]

theorem saddOverflow_iff : a.saddOverflow b = true ↔
    ¬ (-2 ^ (n - 1) ≤ a.toInt + b.toInt ∧ a.toInt + b.toInt ≤ 2 ^ (n - 1) - 1) := by
  simp only [BitVec.saddOverflow, Bool.or_eq_true, decide_eq_true_eq]
  omega

theorem ssubOverflow_iff : a.ssubOverflow b = true ↔
    ¬ (-2 ^ (n - 1) ≤ a.toInt - b.toInt ∧ a.toInt - b.toInt ≤ 2 ^ (n - 1) - 1) := by
  simp only [BitVec.ssubOverflow, Bool.or_eq_true, decide_eq_true_eq]
  omega

end FlagComputer

/-- Settles O15, at any width: OF by both readings of the library's `saddOverflow`, the other flags by definition. -/
theorem flagsAfterAddition : Obligations.FlagsAfterAddition := fun n _ f a b => by
  refine ⟨decide_eq_true_iff, ?_, ?_, decide_eq_true_iff, rfl, rfl, rfl, rfl, rfl, rfl⟩
  · rw [← BitVec.add_def, ← BitVec.msb_eq_getLsbD_last, ← BitVec.msb_eq_getLsbD_last, ← BitVec.msb_eq_getLsbD_last]
    simp [Flags.afterAdd]
  · rw [Flags.afterAdd_overflow, saddOverflow_iff]

/-- Settles O16, at any width: OF by both readings of the library's `ssubOverflow`, the other flags by definition. -/
theorem flagsAfterSubtraction : Obligations.FlagsAfterSubtraction := fun n _ f a b => by
  simp only [ofInt_toNat_sub_toNat, ← BitVec.msb_eq_getLsbD_last]
  refine ⟨decide_eq_true_iff, ?_, ?_, decide_eq_true_iff, rfl, rfl, rfl, rfl, rfl, rfl⟩
  · simp [Flags.afterSub]
  · rw [Flags.afterSub_overflow, ssubOverflow_iff]

/-- Settles O17: `Flags.setSZP_eq` (R150), with CF and OF cleared. -/
theorem flagsAfterLogic : Obligations.FlagsAfterLogic := fun n _ f r => by
  rw [Flags.afterLogic, Flags.setSZP_eq]

end Sys2Proof.Machine
end

section
/-! Family `other`, the instructions with two operands and the instructions with one: ADD, SUB, CMP, AND, OR, XOR in their
nine forms (41_arithmetic.md R153), INC, DEC, NOT, MOV. -/

namespace Sys2Proof.Machine

/-! ## An operand out of range -/

theorem commit_guarded_outside {s : State} {l : List Access} {a : Word} (h : firstOutsideOf s l = some a)
    (r : Except Fault State) : commit s (guarded s l r) = .next { s with status := .faulted (.memoryFault a) } := by
  rw [guarded_outside h, commit_error]

theorem rm8Access_outside {s : State} {m : MemOp} (h : s.memSize ≤ (effAddr s.regs m).toNat) :
    firstOutsideOf s (rm8Access s (.mem m)) = some (effAddr s.regs m) := by
  rw [rm8Access, firstOutsideOf_one, if_pos (Nat.lt_succ_of_le h)]

theorem rm16Access_outside {s : State} {m : MemOp} (h : s.memSize ≤ (effAddr s.regs m).toNat + 1) :
    firstOutsideOf s (rm16Access s (.mem m)) = some (effAddr s.regs m) := by
  rw [rm16Access, firstOutsideOf_one, if_pos (Nat.lt_succ_of_le h)]

/-- An instruction has one memory operand at most: with its source in memory its destination is a register. -/
def OneMemory8 (dst : RM8) (src : Src8) : Prop := ∀ m, src = .rm (.mem m) → ∃ r, dst = .reg r

/-- The same of a word instruction. -/
def OneMemory16 (dst : RM16) (src : Src16) : Prop := ∀ m, src = .rm (.mem m) → ∃ r, dst = .reg r

section TwoOperands

variable {s : State} {m : MemOp}

theorem dst_src8_outside {dst : RM8} {src : Src8} (hone : OneMemory8 dst src) (hm : dst = .mem m ∨ src = .rm (.mem m))
    (h : s.memSize ≤ (effAddr s.regs m).toNat) :
    firstOutsideOf s (rm8Access s dst ++ src8Access s src) = some (effAddr s.regs m) := by
  rw [firstOutsideOf_append]
  obtain rfl | rfl := hm
  · rw [rm8Access_outside h, Option.some_or]
  · obtain ⟨r, rfl⟩ := hone m rfl
    exact rm8Access_outside h

theorem dst_src16_outside {dst : RM16} {src : Src16} (hone : OneMemory16 dst src)
    (hm : dst = .mem m ∨ src = .rm (.mem m)) (h : s.memSize ≤ (effAddr s.regs m).toNat + 1) :
    firstOutsideOf s (rm16Access s dst ++ src16Access s src) = some (effAddr s.regs m) := by
  rw [firstOutsideOf_append]
  obtain rfl | rfl := hm
  · rw [rm16Access_outside h, Option.some_or]
  · obtain ⟨r, rfl⟩ := hone m rfl
    exact rm16Access_outside h

theorem src_dst8_outside {dst : RM8} {src : Src8} (hone : OneMemory8 dst src) (hm : dst = .mem m ∨ src = .rm (.mem m))
    (h : s.memSize ≤ (effAddr s.regs m).toNat) :
    firstOutsideOf s (src8Access s src ++ rm8Access s dst) = some (effAddr s.regs m) := by
  rw [firstOutsideOf_append]
  obtain rfl | rfl := hm
  · match src, hone with
    | .imm _, _ | .rm (.reg _), _ => exact rm8Access_outside h
    | .rm (.mem m'), hone => exact nomatch hone m' rfl
  · exact (congrArg (Option.or · _) (rm8Access_outside h)).trans Option.some_or

theorem src_dst16_outside {dst : RM16} {src : Src16} (hone : OneMemory16 dst src)
    (hm : dst = .mem m ∨ src = .rm (.mem m)) (h : s.memSize ≤ (effAddr s.regs m).toNat + 1) :
    firstOutsideOf s (src16Access s src ++ rm16Access s dst) = some (effAddr s.regs m) := by
  rw [firstOutsideOf_append]
  obtain rfl | rfl := hm
  · match src, hone with
    | .imm _, _ | .rm (.reg _), _ => exact rm16Access_outside h
    | .rm (.mem m'), hone => exact nomatch hone m' rfl
  · exact (congrArg (Option.or · _) (rm16Access_outside h)).trans Option.some_or

end TwoOperands

/-! ## The claims, from the shape an instruction has -/

section Claims

variable {i : Instr}

theorem byteOp_of_binary8 {op : Byte → Byte → Byte} {fl : Flags → Byte → Byte → Flags} {dst : RM8} {src : Src8}
    (hone : OneMemory8 dst src) (hi : exec i = binary8 op fl dst src i.len) : ByteOp i dst src op fl := fun s => by
  rw [hi]
  refine ⟨binary8_completes op fl dst src i.len s, fun m hm h => ?_⟩
  rw [binary8_eq, commit_guarded_outside (dst_src8_outside hone hm h)]

theorem wordOp_of_binary16 {op : Word → Word → Word} {fl : Flags → Word → Word → Flags} {dst : RM16} {src : Src16}
    (hone : OneMemory16 dst src) (hi : exec i = binary16 op fl dst src i.len) : WordOp i dst src op fl := fun s => by
  rw [hi]
  refine ⟨binary16_completes op fl dst src i.len s, fun m hm h => ?_⟩
  rw [binary16_eq, commit_guarded_outside (dst_src16_outside hone hm h)]

theorem byteTest_of_compare8 {fl : Flags → Byte → Byte → Flags} {dst : RM8} {src : Src8}
    (hone : OneMemory8 dst src) (hi : exec i = compare8 fl dst src i.len) : ByteTest i dst src fl := fun s => by
  rw [hi]
  refine ⟨compare8_completes fl dst src i.len s, fun m hm h => ?_⟩
  rw [compare8_eq, commit_guarded_outside (dst_src8_outside hone hm h)]

theorem wordTest_of_compare16 {fl : Flags → Word → Word → Flags} {dst : RM16} {src : Src16}
    (hone : OneMemory16 dst src) (hi : exec i = compare16 fl dst src i.len) : WordTest i dst src fl := fun s => by
  rw [hi]
  refine ⟨compare16_completes fl dst src i.len s, fun m hm h => ?_⟩
  rw [compare16_eq, commit_guarded_outside (dst_src16_outside hone hm h)]

theorem byteMove_of_move8 {dst : RM8} {src : Src8} (hone : OneMemory8 dst src) (hi : exec i = move8 dst src i.len) :
    ByteMove i dst src := fun s => by
  rw [hi]
  refine ⟨move8_completes dst src i.len s, fun m hm h => ?_⟩
  rw [move8_eq, commit_guarded_outside (src_dst8_outside hone hm h)]

theorem wordMove_of_move16 {dst : RM16} {src : Src16} (hone : OneMemory16 dst src)
    (hi : exec i = move16 dst src i.len) : WordMove i dst src := fun s => by
  rw [hi]
  refine ⟨move16_completes dst src i.len s, fun m hm h => ?_⟩
  rw [move16_eq, commit_guarded_outside (src_dst16_outside hone hm h)]

theorem byteUnary_of_unary8 {op : Byte → Byte} {fl : Flags → Byte → Flags} {dst : RM8}
    (hi : exec i = unary8 op fl dst i.len) : ByteUnary i dst op fl := fun s => by
  rw [hi]
  refine ⟨unary8_completes op fl dst i.len s, fun m hm h => ?_⟩
  rw [unary8_eq, hm, commit_guarded_outside (rm8Access_outside h)]

theorem wordUnary_of_unary16 {op : Word → Word} {fl : Flags → Word → Flags} {dst : RM16}
    (hi : exec i = unary16 op fl dst i.len) : WordUnary i dst op fl := fun s => by
  rw [hi]
  refine ⟨unary16_completes op fl dst i.len s, fun m hm h => ?_⟩
  rw [unary16_eq, hm, commit_guarded_outside (rm16Access_outside h)]

end Claims

/-! ## Nine forms -/

/-- In every row of R153 at most one operand is in memory. -/
theorem NineFormsEach.imp {ops : NineForms} {p8 q8 : Instr → RM8 → Src8 → Prop} {p16 q16 : Instr → RM16 → Src16 → Prop}
    (h : NineFormsEach ops p8 p16) (h8 : ∀ {i dst src}, OneMemory8 dst src → p8 i dst src → q8 i dst src)
    (h16 : ∀ {i dst src}, OneMemory16 dst src → p16 i dst src → q16 i dst src) : NineFormsEach ops q8 q16 := by
  obtain ⟨hRmR8, hRmR16, hRRm8, hRRm16, hAl, hAx, hRmImm8, hRmImm16, hRmSimm8⟩ := h
  exact ⟨fun rm r => h8 nofun (hRmR8 rm r), fun rm r => h16 nofun (hRmR16 rm r),
    fun r rm => h8 (fun _ _ => ⟨r, rfl⟩) (hRRm8 r rm), fun r rm => h16 (fun _ _ => ⟨r, rfl⟩) (hRRm16 r rm),
    fun v => h8 nofun (hAl v), fun v => h16 nofun (hAx v),
    fun rm v => h8 nofun (hRmImm8 rm v), fun rm v => h16 nofun (hRmImm16 rm v), fun rm v => h16 nofun (hRmSimm8 rm v)⟩

/-- Every form of `ops` is the shape that computes and writes. -/
def NineFormsBinary (ops : NineForms) (op8 : Byte → Byte → Byte) (fl8 : Flags → Byte → Byte → Flags)
    (op16 : Word → Word → Word) (fl16 : Flags → Word → Word → Flags) : Prop :=
  NineFormsEach ops (fun i dst src => exec i = binary8 op8 fl8 dst src i.len)
    (fun i dst src => exec i = binary16 op16 fl16 dst src i.len)

theorem nineFormsOp_of_binary {ops : NineForms} {op8 : Byte → Byte → Byte} {fl8 : Flags → Byte → Byte → Flags}
    {op16 : Word → Word → Word} {fl16 : Flags → Word → Word → Flags} (h : NineFormsBinary ops op8 fl8 op16 fl16) :
    NineFormsOp ops op8 fl8 op16 fl16 :=
  h.imp byteOp_of_binary8 wordOp_of_binary16

theorem addForms_binary : NineFormsBinary addForms (· + ·) Flags.afterAdd (· + ·) Flags.afterAdd := by
  and_intros <;> intros <;> rfl

theorem subForms_binary : NineFormsBinary subForms (· - ·) Flags.afterSub (· - ·) Flags.afterSub := by
  and_intros <;> intros <;> rfl

theorem andForms_binary : NineFormsBinary andForms (· &&& ·) (fun f a b => f.afterLogic (a &&& b)) (· &&& ·)
    (fun f a b => f.afterLogic (a &&& b)) := by
  and_intros <;> intros <;> rfl

theorem orForms_binary : NineFormsBinary orForms (· ||| ·) (fun f a b => f.afterLogic (a ||| b)) (· ||| ·)
    (fun f a b => f.afterLogic (a ||| b)) := by
  and_intros <;> intros <;> rfl

theorem xorForms_binary : NineFormsBinary xorForms (· ^^^ ·) (fun f a b => f.afterLogic (a ^^^ b)) (· ^^^ ·)
    (fun f a b => f.afterLogic (a ^^^ b)) := by
  and_intros <;> intros <;> rfl

theorem cmpForms_compare : NineFormsEach cmpForms (fun i dst src => exec i = compare8 Flags.afterSub dst src i.len)
    (fun i dst src => exec i = compare16 Flags.afterSub dst src i.len) := by
  and_intros <;> intros <;> rfl

/-- Settles O18: addition of words is the sum modulo 2^n by definition. -/
theorem addWritesSumAndFlags : Obligations.AddWritesSumAndFlags :=
  ⟨nineFormsOp_of_binary addForms_binary, nineFormsBytes_of_groupOne (k := 0) rfl⟩

/-- Settles O19: the wrapped difference is the integer difference modulo 2^n. -/
theorem subWritesDifferenceAndFlags : Obligations.SubWritesDifferenceAndFlags := by
  have hop : ∀ n, (fun a b : BitVec n => BitVec.ofInt n ((a.toNat : Int) - (b.toNat : Int))) = (· - ·) :=
    fun _ => funext₂ ofInt_toNat_sub_toNat
  rw [Obligations.SubWritesDifferenceAndFlags, hop 8, hop 16]
  exact ⟨nineFormsOp_of_binary subForms_binary, nineFormsBytes_of_groupOne (k := 5) rfl⟩

/-- Settles O20: the shape that computes flags only. -/
theorem cmpSetsFlagsOnly : Obligations.CmpSetsFlagsOnly :=
  ⟨cmpForms_compare.imp byteTest_of_compare8 wordTest_of_compare16, nineFormsBytes_of_groupOne (k := 7) rfl⟩

/-- Settles O21: the shape that computes and writes, at every row of AND. -/
theorem andWritesBitwiseAnd : Obligations.AndWritesBitwiseAnd :=
  ⟨nineFormsOp_of_binary andForms_binary, nineFormsBytes_of_groupOne (k := 4) rfl⟩

/-- Settles O22: the shape that computes and writes, at every row of OR. -/
theorem orWritesBitwiseOr : Obligations.OrWritesBitwiseOr :=
  ⟨nineFormsOp_of_binary orForms_binary, nineFormsBytes_of_groupOne (k := 1) rfl⟩

/-- Settles O23: the shape that computes and writes, at every row of XOR. -/
theorem xorWritesBitwiseXor : Obligations.XorWritesBitwiseXor :=
  ⟨nineFormsOp_of_binary xorForms_binary, nineFormsBytes_of_groupOne (k := 6) rfl⟩

/-! ## INC, DEC, NOT -/

theorem ofNat_toNat_add_one {n : Nat} (a : BitVec n) : BitVec.ofNat n (a.toNat + 1) = a + 1 := by
  rw [BitVec.ofNat_add, BitVec.ofNat_toNat, BitVec.setWidth_eq]
  rfl

theorem ofInt_toNat_sub_one {n : Nat} (a : BitVec n) : BitVec.ofInt n ((a.toNat : Int) - 1) = a - 1 := by
  rw [Int.sub_eq_add_neg, BitVec.ofInt_add, BitVec.ofInt_neg, BitVec.ofInt_natCast, BitVec.ofNat_toNat,
    BitVec.setWidth_eq, ← BitVec.sub_eq_add_neg]
  rfl

theorem ofNat_compl_toNat {n : Nat} (a : BitVec n) : BitVec.ofNat n (2 ^ n - 1 - a.toNat) = ~~~a := by
  rw [← BitVec.toNat_not, BitVec.ofNat_toNat, BitVec.setWidth_eq]

/-- The opcode bytes that carry a register number (30_encoding.md R94). -/
theorem encode_incR16 (r : Reg16) : encode (.incR16 r) = [0x40 + r.num.setWidth 8] := by cases r <;> rfl

theorem encode_decR16 (r : Reg16) : encode (.decR16 r) = [0x48 + r.num.setWidth 8] := by cases r <;> rfl

/-- Settles O24: the wrapped sum with 1, in each of the three forms. -/
theorem incAddsOne : Obligations.IncAddsOne := by
  simp only [Obligations.IncAddsOne, ofNat_toNat_add_one]
  exact ⟨fun r => ⟨wordUnary_of_unary16 rfl, encode_incR16 r, rfl⟩, fun rm => ⟨byteUnary_of_unary8 rfl, rfl, rfl⟩,
    fun rm => ⟨wordUnary_of_unary16 rfl, rfl, rfl⟩⟩

/-- Settles O25: the wrapped difference with 1, in each of the three forms. -/
theorem decSubtractsOne : Obligations.DecSubtractsOne := by
  simp only [Obligations.DecSubtractsOne, ofInt_toNat_sub_one]
  exact ⟨fun r => ⟨wordUnary_of_unary16 rfl, encode_decR16 r, rfl⟩, fun rm => ⟨byteUnary_of_unary8 rfl, rfl, rfl⟩,
    fun rm => ⟨wordUnary_of_unary16 rfl, rfl, rfl⟩⟩

/-- Settles O26: the bitwise complement is 2^n - 1 - dst. -/
theorem notComplementsAndSetsFlags : Obligations.NotComplementsAndSetsFlags := by
  have h8 : ∀ a : Byte, BitVec.ofNat 8 (255 - a.toNat) = ~~~a := ofNat_compl_toNat
  have h16 : ∀ a : Word, BitVec.ofNat 16 (65535 - a.toNat) = ~~~a := ofNat_compl_toNat
  simp only [Obligations.NotComplementsAndSetsFlags, h8, h16]
  exact ⟨fun rm => ⟨byteUnary_of_unary8 rfl, rfl, rfl⟩, fun rm => ⟨wordUnary_of_unary16 rfl, rfl, rfl⟩⟩

/-! ## MOV -/

theorem encode_movR8Imm8 (r : Reg8) (v : Byte) : encode (.movR8Imm8 r v) = [0xB0 + r.num.setWidth 8, v] := by
  cases r <;> rfl

theorem encode_movR16Imm16 (r : Reg16) (v : Word) :
    encode (.movR16Imm16 r v) = [0xB8 + r.num.setWidth 8, lowByte v, highByte v] := by
  cases r <;> rfl

/-- Settles O31: the shape that copies, in each of the twelve forms. -/
theorem movCopiesSourceToDestination : Obligations.MovCopiesSourceToDestination :=
  ⟨fun _ _ => ⟨byteMove_of_move8 nofun rfl, rfl, rfl⟩, fun _ _ => ⟨wordMove_of_move16 nofun rfl, rfl, rfl⟩,
    fun r _ => ⟨byteMove_of_move8 (fun _ _ => ⟨r, rfl⟩) rfl, rfl, rfl⟩,
    fun r _ => ⟨wordMove_of_move16 (fun _ _ => ⟨r, rfl⟩) rfl, rfl, rfl⟩,
    fun _ => ⟨byteMove_of_move8 (fun _ _ => ⟨.al, rfl⟩) rfl, rfl, rfl⟩,
    fun _ => ⟨wordMove_of_move16 (fun _ _ => ⟨.ax, rfl⟩) rfl, rfl, rfl⟩,
    fun _ => ⟨byteMove_of_move8 nofun rfl, rfl, rfl⟩, fun _ => ⟨wordMove_of_move16 nofun rfl, rfl, rfl⟩,
    fun r v => ⟨byteMove_of_move8 nofun rfl, encode_movR8Imm8 r v, rfl⟩,
    fun r v => ⟨wordMove_of_move16 nofun rfl, encode_movR16Imm16 r v, rfl⟩,
    fun _ _ => ⟨byteMove_of_move8 nofun rfl, rfl, rfl⟩, fun _ _ => ⟨wordMove_of_move16 nofun rfl, rfl, rfl⟩⟩

/-! ## Jumps after CMP -/

section CompareFlags

variable {n : Nat} (f : Flags) (a b : BitVec n)

theorem Flags.afterSub_zero : (f.afterSub a b).zero = true ↔ a = b :=
  beq_iff_eq.trans sub_eq_zero

theorem Flags.afterSub_carry : (f.afterSub a b).carry = true ↔ a.toNat < b.toNat := decide_eq_true_iff

/-- SF and OF after Sub differ exactly when the first operand is less, signed: with no overflow SF is the sign of the
difference; with overflow the operands' signs differ, and SF is not the sign of the first. -/
theorem Flags.afterSub_sign_ne_overflow :
    (f.afterSub a b).sign ≠ (f.afterSub a b).overflow ↔ a.toInt < b.toInt := by
  have hsign : (f.afterSub a b).sign = (a - b).msb := rfl
  rw [hsign, Flags.afterSub_overflow]
  cases hov : a.ssubOverflow b with
  | false =>
    have hdiff := BitVec.toInt_sub_of_not_ssubOverflow (Bool.not_eq_true _ ▸ hov)
    rw [Bool.ne_false_iff, BitVec.msb_eq_toInt, hdiff, decide_eq_true_iff]
    omega
  | true =>
    rw [BitVec.ssubOverflow_eq] at hov
    cases ha : a.msb with
    | false =>
      have hb : b.msb = true ∧ (a - b).msb = true := by simpa [ha] using hov
      have hpos := BitVec.toInt_nonneg_of_msb_false ha
      have hneg := BitVec.toInt_neg_of_msb_true hb.1
      simp only [hb.2, ne_eq, not_true_eq_false, false_iff]
      omega
    | true =>
      have hb : b.msb = false ∧ (a - b).msb = false := by simpa [ha] using hov
      have hneg := BitVec.toInt_neg_of_msb_true ha
      have hpos := BitVec.toInt_nonneg_of_msb_false hb.1
      simp only [hb.2, ne_eq, reduceCtorEq, not_false_eq_true, true_iff]
      omega

end CompareFlags

/-- A branch whose test decides `p`. -/
theorem branchIf_decide {c : Bool} {p : Prop} [Decidable p] (h : c = true ↔ p) (d : Byte) (t : State) :
    branchIf c d t =
      .next { t with pc := if decide p = true then t.pc + 2 + d.signExtend 16 else t.pc + 2 } := by
  have hc : c = decide p := Bool.eq_iff_iff.mpr (h.trans decide_eq_true_iff.symm)
  rw [← hc]
  cases c <;> rfl

/-- On the flags of `a - b` the ten jumps compare `a` and `b`. -/
theorem jumpsCompare_of_flags {n : Nat} {f : Flags} {a b : BitVec n} {t : State} (ht : t.flags = f.afterSub a b)
    (d : Byte) : JumpsCompare a b d t := by
  have hzero : t.flags.zero = true ↔ a = b := ht ▸ f.afterSub_zero a b
  have hcarry : t.flags.carry = true ↔ a.toNat < b.toNat := ht ▸ f.afterSub_carry a b
  have hless : t.flags.sign ≠ t.flags.overflow ↔ a.toInt < b.toInt := ht ▸ f.afterSub_sign_ne_overflow a b
  have hnat : a = b ↔ a.toNat = b.toNat := BitVec.toNat_inj.symm
  have hint : a = b ↔ a.toInt = b.toInt := BitVec.toInt_inj.symm
  have hnotZero : t.flags.zero = false ↔ a ≠ b := by rw [← Bool.not_eq_true, hzero]
  have hnotCarry : t.flags.carry = false ↔ b.toNat ≤ a.toNat := by rw [← Bool.not_eq_true, hcarry, Nat.not_lt]
  have hnotLess : t.flags.sign = t.flags.overflow ↔ b.toInt ≤ a.toInt := by rw [← not_ne_iff, hless, Int.not_lt]
  refine ⟨branchIf_decide hzero d t, branchIf_decide ?_ d t, branchIf_decide hcarry d t, branchIf_decide ?_ d t,
    branchIf_decide ?_ d t, branchIf_decide ?_ d t, branchIf_decide ?_ d t, branchIf_decide ?_ d t,
    branchIf_decide ?_ d t, branchIf_decide ?_ d t⟩
  · rw [Bool.not_eq_true', hnotZero]
  · rw [Bool.not_eq_true', hnotCarry]
  · rw [Bool.or_eq_true, hcarry, hzero, hnat]
    omega
  · rw [not_and_not_test_iff, hnotCarry, hnotZero, ne_eq, hnat]
    omega
  · rw [bne_iff_ne, hless]
  · rw [beq_iff_eq, hnotLess]
  · rw [or_bne_test_iff, hzero, hless, hint]
    omega
  · rw [not_and_beq_test_iff, hnotZero, hnotLess, ne_eq, hint]
    omega

theorem byteCompare_of_compare8 {i : Instr} {dst : RM8} {src : Src8}
    (hi : exec i = compare8 Flags.afterSub dst src i.len) : ByteCompare i dst src := fun s d hd hs =>
  ⟨_, hi ▸ compare8_completes Flags.afterSub dst src i.len s hd hs, jumpsCompare_of_flags rfl d⟩

theorem wordCompare_of_compare16 {i : Instr} {dst : RM16} {src : Src16}
    (hi : exec i = compare16 Flags.afterSub dst src i.len) : WordCompare i dst src := fun s d hd hs =>
  ⟨_, hi ▸ compare16_completes Flags.afterSub dst src i.len s hd hs, jumpsCompare_of_flags rfl d⟩

/-- Settles O36: CMP leaves the flags of Sub in each form, and on them the jumps compare. -/
theorem jumpsAfterCompareCompareTheValues : Obligations.JumpsAfterCompareCompareTheValues :=
  cmpForms_compare.imp (fun _ => byteCompare_of_compare8) (fun _ => wordCompare_of_compare16)

end Sys2Proof.Machine
end

section
/-! Family `other`, MUL, DIV, IDIV (41_arithmetic.md R159 to R163). -/

namespace Sys2Proof.Machine

/-! ## The operand in range -/

theorem commit_guarded_inside {s : State} {l : List Access} (h : firstOutsideOf s l = none) (t : State) :
    commit s (guarded s l (.ok t)) = .next t := by
  rw [guarded_inside h, commit_ok]

theorem rm8Access_inside {s : State} {x : RM8} (h : inRange8 s x) : firstOutsideOf s (rm8Access s x) = none := by
  cases x with
  | reg r => rfl
  | mem m => rw [rm8Access, firstOutsideOf_one, if_neg (Nat.not_lt.mpr (of_decide_eq_true h))]

theorem rm16Access_inside {s : State} {x : RM16} (h : inRange16 s x) : firstOutsideOf s (rm16Access s x) = none := by
  cases x with
  | reg r => rfl
  | mem m => rw [rm16Access, firstOutsideOf_one, if_neg (Nat.not_lt.mpr (of_decide_eq_true h))]

/-! ## The operations on numbers -/

theorem ofNat_mod_65536 (p : Nat) : BitVec.ofNat 16 (p % 65536) = BitVec.ofNat 16 p :=
  BitVec.eq_of_toNat_eq (by rw [BitVec.toNat_ofNat, BitVec.toNat_ofNat, Nat.mod_mod])

theorem State.toNat_dxax (s : State) : s.dxax.toNat = s.regs.dx.toNat * 65536 + s.regs.ax.toNat := by
  calc s.dxax.toNat
      = s.regs.dx.toNat <<< 16 ||| s.regs.ax.toNat := BitVec.toNat_append s.regs.dx s.regs.ax
    _ = s.regs.dx.toNat <<< 16 + s.regs.ax.toNat := (Nat.shiftLeft_add_eq_or_of_lt s.regs.ax.isLt _).symm
    _ = s.regs.dx.toNat * 65536 + s.regs.ax.toNat := by rw [Nat.shiftLeft_eq]

section DivideUnsigned

variable {n num b : Nat}

theorem divideUnsigned_zero (hb : b = 0) : divideUnsigned n num b = .error .divideByZero := if_pos hb

theorem divideUnsigned_overflow (hb : b ≠ 0) (h : 2 ^ n - 1 < num / b) :
    divideUnsigned n num b = .error .divideOverflow := by
  rw [divideUnsigned, if_neg hb, if_pos h]

theorem divideUnsigned_fits (hb : b ≠ 0) (h : num / b ≤ 2 ^ n - 1) :
    divideUnsigned n num b = .ok (num / b, num % b) := by
  rw [divideUnsigned, if_neg hb, if_neg (Nat.not_lt.mpr h)]

/-- A division that completes had a divisor and a quotient that fits. -/
theorem divideUnsigned_ok {qr : Nat × Nat} (h : divideUnsigned n num b = .ok qr) :
    b ≠ 0 ∧ num / b ≤ 2 ^ n - 1 ∧ qr = (num / b, num % b) := by
  by_cases hb : b = 0
  · exact nomatch (divideUnsigned_zero hb).symm.trans h
  rcases Nat.lt_or_ge (2 ^ n - 1) (num / b) with hq | hq
  · exact nomatch (divideUnsigned_overflow hb hq).symm.trans h
  · exact ⟨hb, hq, (Except.ok.inj ((divideUnsigned_fits hb hq).symm.trans h)).symm⟩

end DivideUnsigned

section DivideSigned

variable {n : Nat} {num d : Int}

theorem divideSigned_zero (hd : d = 0) : divideSigned n num d = .error .divideByZero := if_pos hd

/-- The symmetric range of a signed quotient (D22). -/
def QuotientFits (n : Nat) (q : Int) : Prop := -((2 ^ (n - 1) - 1 : Nat) : Int) ≤ q ∧ q ≤ ((2 ^ (n - 1) - 1 : Nat) : Int)

theorem not_quotientFits_iff {q : Int} : ¬ QuotientFits n q ↔
    ((2 ^ (n - 1) - 1 : Nat) : Int) < q ∨ q < -((2 ^ (n - 1) - 1 : Nat) : Int) := by
  rw [QuotientFits, not_and_or, Int.not_le, Int.not_le, or_comm]

theorem divideSigned_overflow (hd : d ≠ 0) (h : ¬ QuotientFits n (num.tdiv d)) :
    divideSigned n num d = .error .divideOverflow := by
  rw [divideSigned, if_neg hd, if_pos (not_quotientFits_iff.mp h)]

theorem divideSigned_fits (hd : d ≠ 0) (h : QuotientFits n (num.tdiv d)) :
    divideSigned n num d = .ok (num.tdiv d, num.tmod d) := by
  rw [divideSigned, if_neg hd, if_neg (fun h' => not_quotientFits_iff.mpr h' h), Int.tmod_def, Int.mul_comm]

/-- A division that completes had a divisor and a quotient that fits. -/
theorem divideSigned_ok {qr : Int × Int} (h : divideSigned n num d = .ok qr) :
    d ≠ 0 ∧ QuotientFits n (num.tdiv d) ∧ qr = (num.tdiv d, num.tmod d) := by
  by_cases hd : d = 0
  · exact nomatch (divideSigned_zero hd).symm.trans h
  by_cases hq : QuotientFits n (num.tdiv d)
  · exact ⟨hd, hq, (Except.ok.inj ((divideSigned_fits hd hq).symm.trans h)).symm⟩
  · exact nomatch (divideSigned_overflow hd hq).symm.trans h

/-- The remainder of a division rounded toward zero is smaller than the divisor, and zero or of the sign of the dividend. -/
theorem natAbs_tmod_lt (hd : d ≠ 0) : (num.tmod d).natAbs < d.natAbs := by
  rw [Int.natAbs_tmod]
  exact Nat.mod_lt _ (Int.natAbs_pos.mpr hd)

theorem tmod_mul_nonneg : 0 ≤ num.tmod d * num := by
  rcases Int.le_total 0 num with hnum | hnum
  · exact Int.mul_nonneg (Int.tmod_nonneg d hnum) hnum
  · have hneg : 0 ≤ (-num).tmod d := Int.tmod_nonneg d (by omega)
    rw [Int.neg_tmod] at hneg
    exact Int.mul_nonneg_of_nonpos_of_nonpos (by omega) hnum

end DivideSigned

/-! ## The registers a division leaves -/

theorem State.putQuotient8_eq (s : State) (q r : Byte) :
    s.putQuotient8 q r = { s with regs := { s.regs with ax := joinBytes r q } } := by
  have hax : joinBytes r (lowByte (joinBytes (highByte s.regs.ax) q)) = joinBytes r q := by rw [lowByte_joinBytes]
  exact congrArg (fun v => { s with regs := { s.regs with ax := v } }) hax

section PutQuotient

variable (s : State) (len : Nat)

theorem putQuotient8_al (q r : Byte) : ((s.putQuotient8 q r).advance len).regs.get8 .al = q := by
  rw [State.putQuotient8_eq]
  exact lowByte_joinBytes r q

theorem putQuotient8_ah (q r : Byte) : ((s.putQuotient8 q r).advance len).regs.get8 .ah = r := by
  rw [State.putQuotient8_eq]
  exact highByte_joinBytes r q

theorem putQuotient16_ax (q r : Word) : ((s.putQuotient16 q r).advance len).regs.ax = q := rfl

theorem putQuotient16_dx (q r : Word) : ((s.putQuotient16 q r).advance len).regs.dx = r := rfl

end PutQuotient

/-- Two bytes joined as one number. -/
theorem joinBytes_ofNat {q r : Nat} (hq : q ≤ 255) :
    joinBytes (BitVec.ofNat 8 r) (BitVec.ofNat 8 q) = BitVec.ofNat 16 (r * 256 + q) := by
  apply BitVec.eq_of_toNat_eq
  rw [toNat_joinBytes, BitVec.toNat_ofNat, BitVec.toNat_ofNat, BitVec.toNat_ofNat]
  omega

/-! ## A division behind the check of its operand -/

section Division

variable {α : Type} {s : State} {l : List Access} {len : Nat} {put : α → State} {q : Except Fault α}

theorem division_raises (h : firstOutsideOf s l = none) {f : Fault} (hq : q = .error f) :
    commit s (guarded s l (divided len put q)) = .next { s with status := .faulted f } := by
  rw [guarded_inside h, hq]
  rfl

theorem division_completes (h : firstOutsideOf s l = none) {x : α} (hq : q = .ok x) :
    commit s (guarded s l (divided len put q)) = .next ((put x).advance len) := by
  rw [guarded_inside h, hq]
  rfl

end Division

/-! ## MUL -/

/-- Settles O27: the product is below 2^16 or 2^32, so its halves are the registers. -/
theorem mulWritesExactProduct : Obligations.MulWritesExactProduct := by
  refine ⟨fun rm s => ⟨rfl, fun h => ?_, fun m hm h => ?_⟩, fun rm s => ⟨rfl, fun h => ?_, fun m hm h => ?_⟩⟩
  · exact (mul8_eq s _ rm).trans (commit_guarded_inside (rm8Access_inside h) _)
  · subst hm
    exact (mul8_eq s _ _).trans (commit_guarded_outside (rm8Access_outside h) _)
  · intro p
    rw [ofNat_mod_65536]
    exact (mul16_eq s _ rm).trans (commit_guarded_inside (rm16Access_inside h) _)
  · subst hm
    exact (mul16_eq s _ _).trans (commit_guarded_outside (rm16Access_outside h) _)

/-! ## DIV and IDIV -/

/-- Settles O28: one clause for each outcome of the unsigned division. -/
theorem divWritesQuotientAndRemainder : Obligations.DivWritesQuotientAndRemainder := by
  refine ⟨fun rm s => ⟨rfl, fun h => ?_, fun m hm h => ?_⟩, fun rm s => ⟨rfl, fun h => ?_, fun m hm h => ?_⟩⟩
  · have hin := rm8Access_inside h
    refine ⟨fun hb => ?_, fun hb hq => ?_, fun hb hq => ?_⟩
    · exact (div8_eq s _ rm).trans (division_raises hin (divideUnsigned_zero hb))
    · exact (div8_eq s _ rm).trans (division_raises hin (divideUnsigned_overflow hb hq))
    · rw [← joinBytes_ofNat hq]
      refine (div8_eq s _ rm).trans ((division_completes hin (divideUnsigned_fits hb hq)).trans ?_)
      rw [State.putQuotient8_eq]
      rfl
  · subst hm
    exact (div8_eq s _ _).trans (commit_guarded_outside (rm8Access_outside h) _)
  · have hin := rm16Access_inside h
    rw [← State.toNat_dxax]
    refine ⟨fun hb => ?_, fun hb hq => ?_, fun hb hq => ?_⟩
    · exact (div16_eq s _ rm).trans (division_raises hin (divideUnsigned_zero hb))
    · exact (div16_eq s _ rm).trans (division_raises hin (divideUnsigned_overflow hb hq))
    · exact (div16_eq s _ rm).trans (division_completes hin (divideUnsigned_fits hb hq))
  · subst hm
    exact (div16_eq s _ _).trans (commit_guarded_outside (rm16Access_outside h) _)

/-- Settles O29: one clause for each outcome of the signed division. -/
theorem idivWritesSignedQuotientAndRemainder : Obligations.IdivWritesSignedQuotientAndRemainder := by
  refine ⟨fun rm s => ⟨rfl, fun h => ?_, fun m hm h => ?_⟩, fun rm s => ⟨rfl, fun h => ?_, fun m hm h => ?_⟩⟩
  · have hin := rm8Access_inside h
    refine ⟨fun hd => ?_, fun hd hq => ?_, fun hd hlow hhigh => ?_⟩
    · exact (idiv8_eq s _ rm).trans (division_raises hin (divideSigned_zero hd))
    · exact (idiv8_eq s _ rm).trans (division_raises hin (divideSigned_overflow hd hq))
    · refine (idiv8_eq s _ rm).trans ((division_completes hin (divideSigned_fits hd ⟨hlow, hhigh⟩)).trans ?_)
      rw [State.putQuotient8_eq]
      rfl
  · subst hm
    exact (idiv8_eq s _ _).trans (commit_guarded_outside (rm8Access_outside h) _)
  · have hin := rm16Access_inside h
    refine ⟨fun hd => ?_, fun hd hq => ?_, fun hd hlow hhigh => ?_⟩
    · exact (idiv16_eq s _ rm).trans (division_raises hin (divideSigned_zero hd))
    · exact (idiv16_eq s _ rm).trans (division_raises hin (divideSigned_overflow hd hq))
    · exact (idiv16_eq s _ rm).trans (division_completes hin (divideSigned_fits hd ⟨hlow, hhigh⟩))
  · subst hm
    exact (idiv16_eq s _ _).trans (commit_guarded_outside (rm16Access_outside h) _)

/-! ## The laws -/

/-- A completed run is no fault. -/
theorem not_faulted_of_running {r : Result State} {s t : State} {f : Fault} (ht : t.status = .running)
    (h : r = .next t) : r ≠ .next { s with status := .faulted f } := fun hf => by
  obtain rfl := Host.Outcome.next.inj (h.symm.trans hf)
  cases ht

theorem toNat_mul_toNat_lt {n : Nat} (a b : BitVec n) : a.toNat * b.toNat < 2 ^ n * 2 ^ n :=
  Nat.mul_lt_mul'' a.isLt b.isLt

/-- A quotient that fits is the value of the register that takes it. -/
theorem toNat_ofNat_quotient {n q : Nat} (h : q ≤ 2 ^ n - 1) : (BitVec.ofNat n q).toNat = q := by
  rw [BitVec.toNat_ofNat, Nat.mod_eq_of_lt (Nat.lt_of_le_pred (Nat.two_pow_pos n) h)]

/-- A remainder is below its divisor, so it fits. -/
theorem toNat_ofNat_remainder {n num : Nat} {b : BitVec n} (hb : b.toNat ≠ 0) :
    (BitVec.ofNat n (num % b.toNat)).toNat = num % b.toNat := by
  rw [BitVec.toNat_ofNat, Nat.mod_eq_of_lt ((Nat.mod_lt _ (Nat.pos_of_ne_zero hb)).trans b.isLt)]

theorem toInt_ofInt_quotient {n : Nat} (hn : 0 < n) {q : Int} (h : QuotientFits n q) : (BitVec.ofInt n q).toInt = q := by
  obtain ⟨hlow, hhigh⟩ := h
  have hpos : 0 < 2 ^ (n - 1) := Nat.two_pow_pos _
  have hcast : ((2 ^ (n - 1) : Nat) : Int) = 2 ^ (n - 1) := Nat.cast_pow 2 (n - 1)
  exact BitVec.toInt_ofInt_eq_self hn (by omega) (by omega)

theorem toInt_ofInt_remainder {n : Nat} (hn : 0 < n) {num : Int} {d : BitVec n} (hd : d.toInt ≠ 0) :
    (BitVec.ofInt n (num.tmod d.toInt)).toInt = num.tmod d.toInt := by
  have hlt := natAbs_tmod_lt (num := num) hd
  have hlow := BitVec.le_toInt d
  have hhigh := BitVec.toInt_lt (x := d)
  exact BitVec.toInt_ofInt_eq_self hn (by omega) (by omega)

section Laws

variable {s t : State} (ht : t.status = .running)

include ht

theorem mul8_law {rm : RM8} {len : Nat} (h : mul8 rm len s = .next t) :
    t.regs.ax.toNat = (s.regs.get8 .al).toNat * (value8 s rm).toNat := by
  obtain ⟨f, hf⟩ | ⟨-, hrun⟩ := mul8_cases rm len s
  · exact absurd hf (not_faulted_of_running ht h)
  · obtain rfl := Host.Outcome.next.inj (h.symm.trans hrun)
    exact Nat.mod_eq_of_lt (toNat_mul_toNat_lt _ _)

theorem mul16_law {rm : RM16} {len : Nat} (h : mul16 rm len s = .next t) :
    t.regs.dx.toNat * 65536 + t.regs.ax.toNat = s.regs.ax.toNat * (value16 s rm).toNat := by
  obtain ⟨f, hf⟩ | ⟨-, hrun⟩ := mul16_cases rm len s
  · exact absurd hf (not_faulted_of_running ht h)
  · obtain rfl := Host.Outcome.next.inj (h.symm.trans hrun)
    have hlt := toNat_mul_toNat_lt s.regs.ax (value16 s rm)
    show (BitVec.ofNat 16 (_ / 65536)).toNat * 65536 + (BitVec.ofNat 16 _).toNat = _
    rw [BitVec.toNat_ofNat, BitVec.toNat_ofNat]
    omega

theorem div8_law {rm : RM8} {len : Nat} (h : div8 rm len s = .next t) :
    s.regs.ax.toNat = (t.regs.get8 .al).toNat * (value8 s rm).toNat + (t.regs.get8 .ah).toNat ∧
    (t.regs.get8 .ah).toNat < (value8 s rm).toNat := by
  obtain ⟨f, hf⟩ | ⟨qr, -, hdiv, hrun⟩ := div8_cases rm len s
  · exact absurd hf (not_faulted_of_running ht h)
  obtain ⟨hb, hq, rfl⟩ := divideUnsigned_ok hdiv
  obtain rfl := Host.Outcome.next.inj (h.symm.trans hrun)
  rw [putQuotient8_al, putQuotient8_ah, toNat_ofNat_quotient hq, toNat_ofNat_remainder hb]
  exact ⟨(Nat.div_add_mod' _ _).symm, Nat.mod_lt _ (Nat.pos_of_ne_zero hb)⟩

theorem div16_law {rm : RM16} {len : Nat} (h : div16 rm len s = .next t) :
    s.regs.dx.toNat * 65536 + s.regs.ax.toNat = t.regs.ax.toNat * (value16 s rm).toNat + t.regs.dx.toNat ∧
    t.regs.dx.toNat < (value16 s rm).toNat := by
  obtain ⟨f, hf⟩ | ⟨qr, -, hdiv, hrun⟩ := div16_cases rm len s
  · exact absurd hf (not_faulted_of_running ht h)
  obtain ⟨hb, hq, rfl⟩ := divideUnsigned_ok hdiv
  obtain rfl := Host.Outcome.next.inj (h.symm.trans hrun)
  rw [← State.toNat_dxax, putQuotient16_ax, putQuotient16_dx, toNat_ofNat_quotient hq, toNat_ofNat_remainder hb]
  exact ⟨(Nat.div_add_mod' _ _).symm, Nat.mod_lt _ (Nat.pos_of_ne_zero hb)⟩

theorem idiv8_law {rm : RM8} {len : Nat} (h : idiv8 rm len s = .next t) :
    s.regs.ax.toInt = (t.regs.get8 .al).toInt * (value8 s rm).toInt + (t.regs.get8 .ah).toInt ∧
    (t.regs.get8 .ah).toInt.natAbs < (value8 s rm).toInt.natAbs ∧
    0 ≤ (t.regs.get8 .ah).toInt * s.regs.ax.toInt := by
  obtain ⟨f, hf⟩ | ⟨qr, -, hdiv, hrun⟩ := idiv8_cases rm len s
  · exact absurd hf (not_faulted_of_running ht h)
  obtain ⟨hd, hq, rfl⟩ := divideSigned_ok hdiv
  obtain rfl := Host.Outcome.next.inj (h.symm.trans hrun)
  rw [putQuotient8_al, putQuotient8_ah, toInt_ofInt_quotient (by decide) hq,
    toInt_ofInt_remainder (by decide) hd]
  exact ⟨(Int.tdiv_mul_add_tmod _ _).symm, natAbs_tmod_lt hd, tmod_mul_nonneg⟩

theorem idiv16_law {rm : RM16} {len : Nat} (h : idiv16 rm len s = .next t) :
    s.dxax.toInt = t.regs.ax.toInt * (value16 s rm).toInt + t.regs.dx.toInt ∧
    t.regs.dx.toInt.natAbs < (value16 s rm).toInt.natAbs ∧ 0 ≤ t.regs.dx.toInt * s.dxax.toInt := by
  obtain ⟨f, hf⟩ | ⟨qr, -, hdiv, hrun⟩ := idiv16_cases rm len s
  · exact absurd hf (not_faulted_of_running ht h)
  obtain ⟨hd, hq, rfl⟩ := divideSigned_ok hdiv
  obtain rfl := Host.Outcome.next.inj (h.symm.trans hrun)
  rw [putQuotient16_ax, putQuotient16_dx, toInt_ofInt_quotient (by decide) hq,
    toInt_ofInt_remainder (by decide) hd]
  exact ⟨(Int.tdiv_mul_add_tmod _ _).symm, natAbs_tmod_lt hd, tmod_mul_nonneg⟩

end Laws

/-- Settles O30: a run that completes in a Running session was no fault, so it left product, quotient and remainder. -/
theorem multiplyAndDivideLaws : Obligations.MultiplyAndDivideLaws := fun _ _ _ ht =>
  ⟨fun _ => mul8_law ht, fun _ => mul16_law ht, fun _ => div8_law ht, fun _ => div16_law ht, fun _ => idiv8_law ht,
    fun _ => idiv16_law ht⟩

end Sys2Proof.Machine
end

section
/-! Family `other`, the stack, control flow, and the encodings rejected by name: PUSH, POP, JMP, CALL, RET, HLT, IN, OUT,
LOCK, WAIT. -/

namespace Sys2Proof.Machine

/-! ## A word in and out of range -/

section Word

variable {s : State} {a : Word}

theorem wordAccess_inside (h : a.toNat + 1 < s.memSize) : firstOutsideOf s [(a, 2)] = none := by
  rw [firstOutsideOf_one, if_neg (Nat.not_lt.mpr h)]

theorem wordAccess_outside (h : s.memSize ≤ a.toNat + 1) : firstOutsideOf s [(a, 2)] = some a := by
  rw [firstOutsideOf_one, if_pos (Nat.lt_succ_of_le h)]

theorem operand_word_inside {x : RM16} (hx : inRange16 s x) (h : a.toNat + 1 < s.memSize) :
    firstOutsideOf s (rm16Access s x ++ [(a, 2)]) = none := by
  rw [firstOutsideOf_append, rm16Access_inside hx, wordAccess_inside h, Option.none_or]

theorem operand_word_outside {x : RM16} (hx : inRange16 s x) (h : s.memSize ≤ a.toNat + 1) :
    firstOutsideOf s (rm16Access s x ++ [(a, 2)]) = some a := by
  rw [firstOutsideOf_append, rm16Access_inside hx, wordAccess_outside h, Option.none_or]

theorem operand_outside_word {m : MemOp} (h : s.memSize ≤ (effAddr s.regs m).toNat + 1) :
    firstOutsideOf s (rm16Access s (.mem m) ++ [(a, 2)]) = some (effAddr s.regs m) := by
  rw [firstOutsideOf_append, rm16Access_outside h, Option.some_or]

theorem word_operand_inside {x : RM16} (h : a.toNat + 1 < s.memSize) (hx : inRange16 s x) :
    firstOutsideOf s ((a, 2) :: rm16Access s x) = none := by
  rw [← List.singleton_append, firstOutsideOf_append, wordAccess_inside h, rm16Access_inside hx, Option.none_or]

theorem word_operand_outside {m : MemOp} (h : a.toNat + 1 < s.memSize)
    (hm : s.memSize ≤ (effAddr s.regs m).toNat + 1) :
    firstOutsideOf s ((a, 2) :: rm16Access s (.mem m)) = some (effAddr s.regs m) := by
  rw [← List.singleton_append, firstOutsideOf_append, wordAccess_inside h, rm16Access_outside hm, Option.none_or]

theorem word_outside_operand (l : List Access) (h : s.memSize ≤ a.toNat + 1) :
    firstOutsideOf s ((a, 2) :: l) = some a := by
  rw [← List.singleton_append, firstOutsideOf_append, wordAccess_outside h, Option.some_or]

end Word

/-! ## PUSH and POP -/

theorem encode_pushR16 (r : Reg16) : encode (.pushR16 r) = [0x50 + r.num.setWidth 8] := by cases r <;> rfl

theorem encode_popR16 (r : Reg16) : encode (.popR16 r) = [0x58 + r.num.setWidth 8] := by cases r <;> rfl

/-- Settles O32: the source is checked first, then the stack slot. -/
theorem pushStoresBelowStackTop : Obligations.PushStoresBelowStackTop := by
  refine ⟨fun r s => ⟨encode_pushR16 r, fun h => ?_, fun h => ?_⟩, fun rm s => ⟨rfl, fun hx h => ?_, fun m hm h => ?_,
    fun hx h => ?_⟩⟩
  · have hvalue : (if r = .sp then s.regs.sp - 2 else s.regs.get r) = pushValue s (.reg r) := (pushValue_reg s r).symm
    rw [hvalue]
    exact (pushShape_eq s 1 (.reg r)).trans (commit_guarded_inside (wordAccess_inside h) _)
  · exact (pushShape_eq s 1 (.reg r)).trans (commit_guarded_outside (wordAccess_outside h) _)
  · exact (pushShape_eq s _ rm).trans (commit_guarded_inside (operand_word_inside hx h) _)
  · subst hm
    exact (pushShape_eq s _ (.mem m)).trans (commit_guarded_outside (operand_outside_word h) _)
  · exact (pushShape_eq s _ rm).trans (commit_guarded_outside (operand_word_outside hx h) _)

/-- POP to a register, either form. -/
theorem popShape_reg (s : State) (len : Nat) (r : Reg16) (h : s.regs.sp.toNat + 1 < s.memSize) :
    popShape (.reg r) len s = .next { s with
      regs := ({ s.regs with sp := s.regs.sp + 2 } : Regs).set r (s.mem.readWord s.regs.sp.toNat)
      pc := s.pc + BitVec.ofNat 16 len } :=
  (popShape_eq s len (.reg r)).trans (commit_guarded_inside (word_operand_inside h rfl) _)

theorem popShape_stack_outside (s : State) (len : Nat) (x : RM16) (h : s.memSize ≤ s.regs.sp.toNat + 1) :
    popShape x len s = .next { s with status := .faulted (.memoryFault s.regs.sp) } :=
  (popShape_eq s len x).trans (commit_guarded_outside (word_outside_operand _ h) _)

/-- Settles O33: the stack slot is checked first, then a memory destination, whose address does not depend on SP. -/
theorem popLoadsFromStackTop : Obligations.PopLoadsFromStackTop := by
  refine ⟨fun r s => ⟨encode_popR16 r, popShape_reg s 1 r, popShape_stack_outside s 1 (.reg r)⟩, fun rm s =>
    ⟨rfl, fun r hr h => ?_, fun m hm h hin => ?_, popShape_stack_outside s _ rm, fun m hm h hout => ?_⟩⟩
  · subst hr
    exact popShape_reg s 2 r h
  · subst hm
    have haddr : effAddr (s.regs.set .sp (s.regs.sp + 2)) m = effAddr s.regs m := effAddr_set_sp _ _ _
    rw [← haddr]
    have hinside := word_operand_inside (x := .mem m) h (decide_eq_true hin)
    exact (popShape_eq s _ (.mem m)).trans (commit_guarded_inside hinside _)
  · subst hm
    exact (popShape_eq s _ (.mem m)).trans (commit_guarded_outside (word_operand_outside h hout) _)

/-! ## JMP, CALL, RET -/

/-- Settles O37: a direct target needs no check, an indirect one that of its operand. -/
theorem jmpSetsPc : Obligations.JmpSetsPc := by
  refine ⟨fun d s => ⟨rfl, rfl⟩, fun d s => ⟨rfl, rfl⟩, fun rm s => ⟨rfl, fun h => ?_, fun m hm h => ?_⟩⟩
  · show jumpTo (readRM16 s rm) s = _
    rw [readRM16_guarded, jumpTo_eq, commit_guarded_inside (rm16Access_inside h)]
    rfl
  · subst hm
    show jumpTo (readRM16 s (.mem m)) s = _
    rw [readRM16_guarded, jumpTo_eq, commit_guarded_outside (rm16Access_outside h)]

/-- An indirect CALL: the checks of its operand, then that of the stack slot. -/
theorem exec_callRm16 (rm : RM16) (s : State) : exec (.callRm16 rm) s =
    commit s (guarded s (rm16Access s rm ++ [(s.loweredSp, 2)])
      (.ok ((pushed s (s.next (2 + rm.dispBytes))).setPc (value16 s rm)))) := by
  show callTo (readRM16 s rm) (2 + rm.dispBytes) s = _
  rw [readRM16_guarded, callTo_eq]

/-- Settles O38: a direct target needs no check, an indirect one that of its operand; then the stack slot. -/
theorem callPushesReturnAddress : Obligations.CallPushesReturnAddress := by
  refine ⟨fun d s => ⟨rfl, fun h => ?_, fun h => ?_⟩,
    fun rm s => ⟨rfl, fun hx h => ?_, fun m hm h => ?_, fun hx h => ?_⟩⟩
  · exact (callTo_eq s 3 (l := [])).trans (commit_guarded_inside (wordAccess_inside h) _)
  · exact (callTo_eq s 3 (l := [])).trans (commit_guarded_outside (wordAccess_outside h) _)
  · exact (exec_callRm16 rm s).trans (commit_guarded_inside (operand_word_inside hx h) _)
  · subst hm
    exact (exec_callRm16 (.mem m) s).trans (commit_guarded_outside (operand_outside_word h) _)
  · exact (exec_callRm16 rm s).trans (commit_guarded_outside (operand_word_outside hx h) _)

theorem returnReleasing_inside {s : State} (k : Word) (h : s.regs.sp.toNat + 1 < s.memSize) :
    returnReleasing k s = .next { s with
      regs := { s.regs with sp := s.regs.sp + 2 + k }, pc := s.mem.readWord s.regs.sp.toNat } :=
  (returnReleasing_eq s k).trans (commit_guarded_inside (wordAccess_inside h) _)

theorem returnReleasing_outside {s : State} (k : Word) (h : s.memSize ≤ s.regs.sp.toNat + 1) :
    returnReleasing k s = .next { s with status := .faulted (.memoryFault s.regs.sp) } :=
  (returnReleasing_eq s k).trans (commit_guarded_outside (wordAccess_outside h) _)

/-- Settles O39: RET is RET imm16 with nothing released. -/
theorem retPopsPc : Obligations.RetPopsPc := by
  refine ⟨fun s => ⟨rfl, fun h => ?_, returnReleasing_outside 0⟩,
    fun k s => ⟨rfl, returnReleasing_inside k, returnReleasing_outside k⟩⟩
  have hzero : s.regs.sp + 2 + 0 = s.regs.sp + 2 := BitVec.add_zero _
  rw [← hzero]
  exact returnReleasing_inside 0 h

/-! ## HLT and the encodings rejected by name -/

/-- Settles O41: HLT's own equation. -/
theorem hltHaltsTheMachine : Obligations.HltHaltsTheMachine := fun _ => ⟨rfl, rfl⟩

/-- An instruction of one opcode byte whose meaning is to reject that byte. -/
theorem rejectedAs_of_reject {i : Instr} {b0 : Byte} (hdecode : ∀ rest, decode (b0 :: rest) = .ok (i, rest))
    (hexec : exec i = reject b0) : RejectedAs i b0 :=
  ⟨hdecode, fun s => by rw [hexec, reject, raise]⟩

/-- Settles O43: each of the ten bytes has a row of its own, and the meaning of each row rejects it. -/
theorem rejectedByNameRaise : Obligations.RejectedByNameRaise := by
  refine ⟨?_, ?_, ?_, ?_, ?_, ?_, ?_, ?_, ?_, ?_⟩ <;> exact rejectedAs_of_reject (fun _ => rfl) rfl

end Sys2Proof.Machine
end
